-- ==== Sys2Proof/Word.lean ====
section
/-! DEFINITION. The words of VWK-CORE: bytes, selector words, and the Byte Sequence's type. -/

namespace Sys2Proof

/-- One element of the Byte Sequence, and the width of the Working Bit Accumulator (rule R5: 8 bits). -/
abbrev Byte := BitVec 8

/-- A selector word `sel[13:0]`, format `SEL14` (rule R70). -/
abbrev SelWord := BitVec 14

/-- The core's only memory, the Byte Sequence (rules R29, R50): the byte at position `k` of the list is
the byte of index `k`. -/
abbrev Memory := List Byte

end Sys2Proof
end

