-- ==== Sys2Proof/Machine/Constants.lean ====
section
/-! DEFINITION. The constants of rule R6, each in one place, and exact comparison with a rational multiple of
the tick (rule R77). The literals are the source's and are unaudited (assumption 8). -/

namespace Sys2Proof.Machine

/-- An exact positive rational `num/den` (rule R6: "none is a floating-point value"). -/
structure Ratio where
  num : Nat
  den : Nat
  deriving DecidableEq, Repr

/-- `LONG_TICK_THRESHOLD`, 3/2. -/
def longTickThreshold : Ratio := ⟨3, 2⟩

/-- `SILENCE_TICK_LENGTH`, 50. -/
def silenceTickLength : Ratio := ⟨50, 1⟩

/-- `SC_HALF`, 1/2. -/
def scHalf : Ratio := ⟨1, 2⟩

/-- `SC_TIMEOUT`, 2. -/
def scTimeout : Ratio := ⟨2, 1⟩

/-- `SC_SKIP`, 3/2. -/
def scSkip : Ratio := ⟨3, 2⟩

/-- `SC_MIN_BYTES`, 2. -/
def scMinBytes : Nat := 2

/-- `SC_PREAMBLE`, 0xF. -/
def scPreamble : BitVec 4 := 0xF

/-- `DC_MIN_BYTES`, 1. -/
def dcMinBytes : Nat := 1

/-- `BYTE_BITS`, 8. -/
def byteBits : Nat := 8

/-- `d > t * q`, evaluated exactly by clearing the denominator (rule R77). -/
def exceeds (d t : Nat) (q : Ratio) : Bool :=
  q.den * d > q.num * t

/-- `d >= t * q`, evaluated exactly by clearing the denominator (rule R77). -/
def reaches (d t : Nat) (q : Ratio) : Bool :=
  q.den * d ≥ q.num * t

end Sys2Proof.Machine
end

