-- ==== Sys2Proof/Config.lean ====
section
/-! DEFINITION. What an implementation fixes (rule R5) and the one value the spec leaves without a meaning. -/

namespace Sys2Proof

/-- The two open parameters of a finite implementation (rule R5; decisions D5 and D15). The architectural
model is unbounded; `Sys2Proof.Safety` says with these which runs such an implementation follows (U1, U2). -/
structure Limits where
  /-- `IDX_W`, the width in bits of `sample_index`, `lastchange` and `ticklength`. -/
  idxWidth : Nat
  /-- `FRAME_CAP`, the number of bytes the Byte Sequence can hold. -/
  frameCap : Nat
  deriving DecidableEq, Repr

/-- FREE VALUE (assumption 5; safe). `d = idx - lastchange` when `lastchange` is above `idx`. Rules R30 and R96 (c)
say that this never happens in a run and give the difference no value there. -/
opaque Config.elapsedBelowOrigin : (idx lastchange : Nat) → Nat

end Sys2Proof
end

