-- ==== Sys2Proof/Syntax.lean ====
section
/-! DEFINITION. The names the spec gives: variants, Decoder States, the 25 operations, the fields of the selector
word, and the stimulus notation. -/

namespace Sys2Proof

/-- The two demodulation strategies (rules R21, R73): duration-coded and self-clocking. -/
inductive Variant where
  | dc
  | sc
  deriving DecidableEq, Repr

/-- The Decoder State (rules R22, R72), which plays the part of a program counter. -/
inductive DecoderState where
  | quiet
  | mark
  | space
  | abort
  | firstmark
  | inmessage
  | needchange
  | tickwait
  deriving DecidableEq, Repr

/-- The 25 operations of rule R74, in the order of the table. An operation has no operand fields but the
level bit, which only `I_SAMPLE`, `N_EDGE` and `T_SAMPLE` use as data (rule R71, assumption 9). -/
inductive Instr where
  | reset
  | qIdle
  | qRiseDc
  | qRiseSc
  | mHold
  | mFallCal
  | mFallLong
  | mFallShort
  | sRise
  | sSilence
  | sGuard
  | sHold
  | aEmitDc
  | aDropDc
  | fHold
  | fFall
  | iWait
  | iSample (level : Bool)
  | nTimeout
  | nEdge (level : Bool)
  | nWait
  | tWait
  | tSample (level : Bool)
  | aEmitSc
  | aDropSc
  deriving DecidableEq, Repr

/-- The fields of a selector word, named by the letters of rule R70. -/
structure Selector where
  /-- bit 13: pin `rst` -/
  r : Bool
  /-- bit 12: register `variant` -/
  v : Variant
  /-- bits 11:9: register `state` -/
  st : DecoderState
  /-- bit 8: pin `level` -/
  l : Bool
  /-- bit 7: calibrated -/
  k : Bool
  /-- bit 6: changed -/
  x : Bool
  /-- bit 5: half -/
  h : Bool
  /-- bit 4: skip done -/
  w : Bool
  /-- bit 3: long -/
  g : Bool
  /-- bit 2: timeout -/
  o : Bool
  /-- bit 1: silence -/
  z : Bool
  /-- bit 0: frame ok -/
  f : Bool
  deriving DecidableEq, Repr

/-- Why a word selects no operation: the three classes of rule R75, and a number that is no 14-bit word. -/
inductive Reserved where
  /-- R75 (a): a self-clocking state in a duration-coded instance. -/
  | scStateInDc
  /-- R75 (b): a duration-coded state in a self-clocking instance. -/
  | dcStateInSc
  /-- R75 (c): a self-clocking timing state with no calibrated tick. -/
  | uncalibratedSc
  /-- Not a selector word: it has a bit set above bit 13 (rule R70: one length, 14 bits). -/
  | tooWide
  deriving DecidableEq, Repr

/-- One entry of the bit list of `MANCH` (rule R79): a bit, or `BYTE(v)` for the eight bits of `v`. -/
inductive ManchItem where
  | bit (b : Bool)
  | byte (v : Byte)
  deriving DecidableEq, Repr

/-- One word of the stimulus notation (rules R78, R79). -/
inductive Stim where
  /-- `H<n>`: `n` samples at level 1 -/
  | high (n : Nat)
  /-- `L<n>`: `n` samples at level 0 -/
  | low (n : Nat)
  /-- `PULSE(n, m)` -/
  | pulse (n m : Nat)
  /-- `MANCH(T; b_1 b_2 ... b_k)` -/
  | manch (t : Nat) (items : List ManchItem)
  deriving DecidableEq, Repr

/-- A stimulus with its variant tag `DC:` or `SC:` (rule R78). -/
structure Stimulus where
  variant : Variant
  items : List Stim
  deriving DecidableEq, Repr

end Sys2Proof
end

