-- ==== Sys2Proof/Machine/State.lean ====
section
/-! DEFINITION. The state record of VWK-CORE (10_state.md) with the pins it is driven by, and the ways a step can
stop. -/

namespace Sys2Proof.Machine

/-- What the input pins of rule R37 carry in one clock cycle. The clock itself is the step. -/
structure Pins where
  /-- `rst`: hard reset, active high, with priority over `sample_valid`. -/
  rst : Bool
  /-- `cfg_variant`: variant selection, read only while `rst` is 1. -/
  cfgVariant : Variant
  /-- `sample_valid`: `level` is a new sample. -/
  sampleValid : Bool
  /-- `level`: the binary level of the sample, from the Level Detector. -/
  level : Bool
  deriving DecidableEq, Repr

/-- All pins low: a clock cycle in which the environment does nothing (rule R95). -/
def Pins.idle : Pins where
  rst := false
  cfgVariant := .dc
  sampleValid := false
  level := false

/-- The outputs of one step (rule R8); each event is absent or carries its value. -/
structure Out where
  /-- `out.bit`: the bit the Demodulator handed to the Frame Assembler in this step. -/
  bit : Option Bool
  /-- `out.byte`: the byte appended to the Byte Sequence in this step. -/
  byte : Option Byte
  /-- `out.frame`: the whole Byte Sequence, when a Message completes and passes validation. -/
  frame : Option Memory
  deriving DecidableEq, Repr

/-- No output event. -/
def Out.none : Out where
  bit := .none
  byte := .none
  frame := .none

/-- The whole state: the nine fields of rule R20, the outputs of the step that ran last, and the environment's inputs,
which rule R33 says are no state of the core and which stand here because `Host.Core` steps on the state alone
(assumption 1). -/
structure State where
  /-- Rule R21: the variant, loaded by the hard reset only. -/
  variant : Variant
  /-- Rule R22: the Decoder State. -/
  state : DecoderState
  /-- Rule R23: `sample_index`. -/
  sampleIndex : Nat
  /-- Rule R24: `lastchange`. -/
  lastchange : Nat
  /-- Rule R25: `ticklength`; 0 stands for unknown. -/
  ticklength : Nat
  /-- Rule R26: `lastlevel`. -/
  lastlevel : Bool
  /-- Rule R27: `bitacc`, the Working Bit Accumulator. -/
  bitacc : Byte
  /-- Rule R28: `bitcount`, the number of bits held in `bitacc`. -/
  bitcount : BitVec 3
  /-- Rule R29: `bytes`, the Byte Sequence. -/
  bytes : Memory
  /-- Rule R8: the outputs of the step that ran last. -/
  out : Out
  /-- MODEL'S OWN: the pins in the clock cycle being run. -/
  pins : Pins
  /-- MODEL'S OWN: the pins in the clock cycles to come, the next one first. -/
  stream : List Pins
  deriving DecidableEq, Repr

/-- The machine right after a hard reset with `cfg_variant` at `v` (rules R34, R91), with nothing presented to it yet. -/
def State.resetWith (v : Variant) : State where
  variant := v
  state := .quiet
  sampleIndex := 0
  lastchange := 0
  ticklength := 0
  lastlevel := false
  bitacc := 0
  bitcount := 0
  bytes := []
  out := Out.none
  pins := Pins.idle
  stream := []

/-- The machine right after reset. The spec loads `variant` from the pin `cfg_variant` (rule R34); this one value stands
for a hard reset with `cfg_variant` at 0, the duration-coded variant. DESIGN CHOICE, unsafe (assumption 2). -/
def State.reset : State :=
  State.resetWith .dc

/-- Faults: none. "The core never stops, never faults and never waits for anything but the next sample" (rule R98), and it
raises nothing (rule R160), so this type has no constructor. Safe (assumption 15). -/
inductive Fault where
  deriving DecidableEq, Repr

/-- Why a step has no meaning. -/
inductive Refusal where
  /-- Raised by `exec` for an instruction without a meaning, by its mnemonic; safe. No arm raises it in this model. -/
  | notModelled (mnemonic : String)
  /-- Raised by `step` on a selector word of the reserved space, by its class: the spec gives it no meaning and a
  model refuses it (rule R75, U3). Safe; no run from a reset meets it (rule R98, assumption 6). -/
  | reservedSelector (why : Reserved)
  deriving DecidableEq, Repr

end Sys2Proof.Machine
end

