-- ==== Sys2Proof/Machine/Operands.lean ====
section
/-! DEFINITION. The quantities an operation works on besides the registers (rules R30, R71). -/

namespace Sys2Proof.Machine

/-- Rule R30: the index of the current sample, `idx = sample_index + 1`, from the value stored at the start of the step. -/
def State.idx (s : State) : Nat :=
  s.sampleIndex + 1

/-- Rule R30: `d = idx - lastchange`, the number of samples since the last recorded change. Where the difference would be
negative the spec gives it no value and it is a free value (assumption 5). -/
def State.elapsed (s : State) : Nat :=
  if s.lastchange ≤ s.idx then s.idx - s.lastchange
  else Config.elapsedBelowOrigin s.idx s.lastchange

/-- Whether the core acts in this clock cycle: a hard reset, or a sample (rule R37). -/
def State.active (s : State) : Bool :=
  s.pins.rst || s.pins.sampleValid

end Sys2Proof.Machine
end

