-- ==== Sys2Proof/Machine/Flags.lean ====
section
/-! DEFINITION. The eight condition flags of rule R31, computed from the state at the start of the step and the level.
They are combinational: nothing stores them. -/

namespace Sys2Proof.Machine

/-- `K` calibrated: `ticklength != 0`. -/
def State.flagK (s : State) : Bool :=
  s.ticklength != 0

/-- `X` changed: `level != lastlevel`. -/
def State.flagX (s : State) : Bool :=
  s.pins.level != s.lastlevel

/-- `H` half: `2*d >= ticklength`. -/
def State.flagH (s : State) : Bool :=
  reaches s.elapsed s.ticklength scHalf

/-- `W` skip done: `2*d >= 3*ticklength`. -/
def State.flagW (s : State) : Bool :=
  reaches s.elapsed s.ticklength scSkip

/-- `G` long: `2*d > 3*ticklength`. -/
def State.flagG (s : State) : Bool :=
  exceeds s.elapsed s.ticklength longTickThreshold

/-- `O` timeout: `d > 2*ticklength`. -/
def State.flagO (s : State) : Bool :=
  exceeds s.elapsed s.ticklength scTimeout

/-- `Z` silence: `d > 50*ticklength`. -/
def State.flagZ (s : State) : Bool :=
  exceeds s.elapsed s.ticklength silenceTickLength

/-- The upper nibble `b[7:4]` of a byte (rule R9). -/
def upperNibble (b : Byte) : BitVec 4 :=
  b.extractLsb' 4 4

/-- The validator of the duration-coded variant (rule R141): the frame is non-empty. -/
def frameOkDc (m : Memory) : Bool :=
  m.length ≥ dcMinBytes

/-- The validator of the self-clocking variant (rule R142): at least two bytes, and the preamble nibble in the first. With
no byte there is no first byte to look at. -/
def frameOkSc (m : Memory) : Bool :=
  match m with
  | [] => false
  | b :: _ => m.length ≥ scMinBytes && upperNibble b == scPreamble

/-- `F` frame ok: the validator of the instance's variant. -/
def State.flagF (s : State) : Bool :=
  match s.variant with
  | .dc => frameOkDc s.bytes
  | .sc => frameOkSc s.bytes

end Sys2Proof.Machine
end

