-- ==== Sys2Proof/Machine/Memory.lean ====
section
/-! DEFINITION. The Byte Sequence, the core's only memory (20_memory.md): the operations on it, and its view as
address and byte pairs. -/

namespace Sys2Proof.Machine

/-- The byte at index `k`; there is none at or beyond the length, since the sequence has no other places (rule R50). -/
def Memory.read (m : Memory) (k : Nat) : Option Byte :=
  m[k]?

/-- The index the next byte is appended at (rule R50: "the write position is always `len(bytes)`"). -/
def Memory.nextIndex (m : Memory) : Nat :=
  m.length

/-- The only write (rule R51): `bytes <- bytes ++ [v]`. -/
def Memory.append (m : Memory) (v : Byte) : Memory :=
  m ++ [v]

/-- The cleared Byte Sequence (rule R51). -/
def Memory.empty : Memory :=
  []

/-- The bytes of a sequence as cells, the first at address `n`. -/
def Memory.cellsFrom (n : Nat) : Memory → List Host.Cell
  | [] => []
  | b :: bs => (n, b) :: Memory.cellsFrom (n + 1) bs

/-- The Byte Sequence as address and byte pairs, its indices being the addresses (rule R50; assumption 7). -/
def Memory.cells (m : Memory) : List Host.Cell :=
  Memory.cellsFrom 0 m

/-- The cells carry the addresses `n`, `n + 1`, ... without a gap; in particular they strictly rise. -/
def Memory.denseFrom (n : Nat) : List Host.Cell → Bool
  | [] => true
  | c :: cs => c.1 == n && Memory.denseFrom (n + 1) cs

/-- The canonical form: addresses rise from 0 without a gap, and nothing stands at an address outside them. The positional
list has it by construction (`Memory.wf_all` in Laws), so equal memories are equal lists. -/
def Memory.wf (m : Memory) : Bool :=
  Memory.denseFrom 0 (Memory.cells m)

end Sys2Proof.Machine
end

