-- ==== Sys2Proof/Machine/Ops.lean ====
section
/-! DEFINITION. The named operations on the state that the meanings are made of: register writes, the start of a sample,
`PushBit`, the emission, the entry into `ABORT` and the return from it, and the two resets. -/

namespace Sys2Proof.Machine

/-- `state <- target`. -/
def State.goto (s : State) (target : DecoderState) : State :=
  { s with state := target }

/-- `sample_index <- n`. -/
def State.setSampleIndex (s : State) (n : Nat) : State :=
  { s with sampleIndex := n }

/-- `lastchange <- n`. -/
def State.setLastchange (s : State) (n : Nat) : State :=
  { s with lastchange := n }

/-- `ticklength <- n`. -/
def State.setTicklength (s : State) (n : Nat) : State :=
  { s with ticklength := n }

/-- `lastlevel <- l`. -/
def State.setLastlevel (s : State) (l : Bool) : State :=
  { s with lastlevel := l }

/-- Rule R90 (1): `sample_index <- sample_index + 1`; the step's `out` starts with no event. -/
def State.beginSample (s : State) : State :=
  { s with sampleIndex := s.idx, out := Out.none }

/-- The accumulator after a bit is shifted in: `(2*bitacc + b) mod 256` (rule R140). -/
def shiftIn (acc : Byte) (b : Bool) : Byte :=
  BitVec.ofNat 8 (2 * acc.toNat + b.toNat)

/-- `PushBit(b)`, the bit-to-byte shift register (rule R140). -/
def State.pushBit (s : State) (b : Bool) : State :=
  if s.bitcount.toNat + 1 = byteBits then
    { s with
      bitacc := 0
      bitcount := 0
      bytes := Memory.append s.bytes (shiftIn s.bitacc b)
      out := { s.out with bit := some b, byte := some (shiftIn s.bitacc b) } }
  else
    { s with
      bitacc := shiftIn s.bitacc b
      bitcount := BitVec.ofNat 3 (s.bitcount.toNat + 1)
      out := { s.out with bit := some b } }

/-- The index of the Byte Sequence that a `PushBit` from this state stores to, if it completes a byte (rules R51, R55). -/
def State.storeIndex (s : State) : Option Nat :=
  if s.bitcount.toNat + 1 = byteBits then some (Memory.nextIndex s.bytes) else none

/-- `emit Frame(bytes)` (rules R143, R145). -/
def State.emitFrame (s : State) : State :=
  { s with out := { s.out with frame := some s.bytes } }

/-- The one trap-like event (rule R168): the entry into `ABORT` writes `state` and saves nothing. -/
def State.enterAbort (s : State) : State :=
  s.goto .abort

/-- `ResetAll()`, the internal reset (rule R147): every per-message field; `variant` and the step's outputs are kept. -/
def State.resetAll (s : State) : State :=
  { s with
    state := .quiet
    sampleIndex := 0
    lastchange := 0
    ticklength := 0
    lastlevel := false
    bitacc := 0
    bitcount := 0
    bytes := Memory.empty }

/-- The return from `ABORT` (rule R169): nothing is restored, the Message's state is destroyed. -/
def State.returnFromAbort (s : State) : State :=
  s.resetAll

/-- The hard reset (rule R91): `variant` from the pin `cfg_variant`, every other field as `ResetAll` leaves it, no
event. -/
def State.hardReset (s : State) : State :=
  { s.resetAll with variant := s.pins.cfgVariant, out := Out.none }

end Sys2Proof.Machine
end

