-- ==== Sys2Proof/Machine/DurationCoded.lean ====
section
/-! DEFINITION. The duration-coded Demodulator's operations (41_duration_coded.md). `idx` and `d` are those of the start of
the step (rule R30). -/

namespace Sys2Proof.Machine

/-- `M_HOLD`, rule R100: only the sample index changes. -/
def execMHold (s : State) : Host.Outcome State Fault Refusal :=
  .next s.beginSample

/-- `M_FALL_CAL`, rule R101: the first falling edge of a Message calibrates the tick and is bit 0. -/
def execMFallCal (s : State) : Host.Outcome State Fault Refusal :=
  .next ((((s.beginSample.setTicklength s.elapsed).pushBit false).setLastchange s.idx).goto .space)

/-- `M_FALL_LONG`, rule R102: the falling edge of a long pulse is bit 1. -/
def execMFallLong (s : State) : Host.Outcome State Fault Refusal :=
  .next (((s.beginSample.pushBit true).setLastchange s.idx).goto .space)

/-- `M_FALL_SHORT`, rule R103: the falling edge of a short pulse is bit 0. -/
def execMFallShort (s : State) : Host.Outcome State Fault Refusal :=
  .next (((s.beginSample.pushBit false).setLastchange s.idx).goto .space)

/-- `S_RISE`, rule R104: the next pulse begins. -/
def execSRise (s : State) : Host.Outcome State Fault Refusal :=
  .next ((s.beginSample.setLastchange s.idx).goto .mark)

/-- `S_SILENCE`, rule R105: the silence timeout ends the Message. -/
def execSSilence (s : State) : Host.Outcome State Fault Refusal :=
  .next s.beginSample.enterAbort

/-- `S_GUARD`, rule R106: with no calibrated tick no timeout is possible. -/
def execSGuard (s : State) : Host.Outcome State Fault Refusal :=
  .next s.beginSample

/-- `S_HOLD`, rule R107: only the sample index changes. -/
def execSHold (s : State) : Host.Outcome State Fault Refusal :=
  .next s.beginSample

end Sys2Proof.Machine
end

