-- ==== Sys2Proof/Machine/FrameAssembler.lean ====
section
/-! DEFINITION. The operations of the state `ABORT` (43_frame_assembler.md): emit or drop, then the internal reset. -/

namespace Sys2Proof.Machine

/-- `A_EMIT_DC`, rule R143. -/
def execAEmitDc (s : State) : Host.Outcome State Fault Refusal :=
  .next s.beginSample.emitFrame.returnFromAbort

/-- `A_DROP_DC`, rule R144: no output at all. -/
def execADropDc (s : State) : Host.Outcome State Fault Refusal :=
  .next s.beginSample.returnFromAbort

/-- `A_EMIT_SC`, rule R145: all bytes, the preamble's included. -/
def execAEmitSc (s : State) : Host.Outcome State Fault Refusal :=
  .next s.beginSample.emitFrame.returnFromAbort

/-- `A_DROP_SC`, rule R146: no output at all. -/
def execADropSc (s : State) : Host.Outcome State Fault Refusal :=
  .next s.beginSample.returnFromAbort

end Sys2Proof.Machine
end

