-- ==== Sys2Proof/Machine/Quiet.lean ====
section
/-! DEFINITION. The hard reset and the operations of `QUIET` (40_step_and_quiet.md). A meaning performs its whole step: the
increment of rule R90 (1) first, then the operation's pseudocode (assumption 14). -/

namespace Sys2Proof.Machine

/-- `RESET`, rule R91. A hard reset is no sample, so nothing is counted. -/
def execReset (s : State) : Host.Outcome State Fault Refusal :=
  .next s.hardReset

/-- `Q_IDLE`, rule R92: only the sample index changes. -/
def execQIdle (s : State) : Host.Outcome State Fault Refusal :=
  .next s.beginSample

/-- `Q_RISE_DC`, rule R93. `lastchange` is not written. -/
def execQRiseDc (s : State) : Host.Outcome State Fault Refusal :=
  .next ((s.beginSample.goto .mark).setSampleIndex 0)

/-- `Q_RISE_SC`, rule R94. `lastchange` is not written. -/
def execQRiseSc (s : State) : Host.Outcome State Fault Refusal :=
  .next ((s.beginSample.goto .firstmark).setSampleIndex 0)

end Sys2Proof.Machine
end

