-- ==== Sys2Proof/Machine/SelfClocking.lean ====
section
/-! DEFINITION. The self-clocking Demodulator's operations (42_self_clocking.md). `idx` and `d` are those of the start of
the step (rule R30); `level` is the selector word's level bit (rule R71). -/

namespace Sys2Proof.Machine

/-- `F_HOLD`, rule R120: only the sample index changes. -/
def execFHold (s : State) : Host.Outcome State Fault Refusal :=
  .next s.beginSample

/-- `F_FALL`, rule R121: the first falling edge calibrates the tick and is bit 1. -/
def execFFall (s : State) : Host.Outcome State Fault Refusal :=
  .next ((((s.beginSample.setTicklength s.elapsed).setLastchange s.idx).pushBit true).goto .inmessage)

/-- `I_WAIT`, rule R122: only the sample index changes. -/
def execIWait (s : State) : Host.Outcome State Fault Refusal :=
  .next s.beginSample

/-- `I_SAMPLE`, rule R123: the level half a tick after the first falling edge. -/
def execISample (level : Bool) (s : State) : Host.Outcome State Fault Refusal :=
  .next ((s.beginSample.setLastlevel level).goto .needchange)

/-- `N_TIMEOUT`, rule R124: two ticks without a transition end the Message. -/
def execNTimeout (s : State) : Host.Outcome State Fault Refusal :=
  .next s.beginSample.enterAbort

/-- `N_EDGE`, rule R125: a transition is one bit, equal to the new level. `lastlevel` keeps the old level. -/
def execNEdge (level : Bool) (s : State) : Host.Outcome State Fault Refusal :=
  .next (((s.beginSample.pushBit level).setLastchange s.idx).goto .tickwait)

/-- `N_WAIT`, rule R126: only the sample index changes. -/
def execNWait (s : State) : Host.Outcome State Fault Refusal :=
  .next s.beginSample

/-- `T_WAIT`, rule R127: only the sample index changes. -/
def execTWait (s : State) : Host.Outcome State Fault Refusal :=
  .next s.beginSample

/-- `T_SAMPLE`, rule R128: the level one and a half ticks after the last decoded transition. -/
def execTSample (level : Bool) (s : State) : Host.Outcome State Fault Refusal :=
  .next ((s.beginSample.setLastlevel level).goto .needchange)

end Sys2Proof.Machine
end

