-- ==== Sys2Proof/Machine/Dispatch.lean ====
section
/-! DEFINITION. The meaning of every operation, one arm each. -/

namespace Sys2Proof.Machine

def exec (i : Instr) (s : State) : Host.Outcome State Fault Refusal :=
  match i with
  | .reset => Sys2Proof.Machine.execReset s
  | .qIdle => Sys2Proof.Machine.execQIdle s
  | .qRiseDc => Sys2Proof.Machine.execQRiseDc s
  | .qRiseSc => Sys2Proof.Machine.execQRiseSc s
  | .mHold => Sys2Proof.Machine.execMHold s
  | .mFallCal => Sys2Proof.Machine.execMFallCal s
  | .mFallLong => Sys2Proof.Machine.execMFallLong s
  | .mFallShort => Sys2Proof.Machine.execMFallShort s
  | .sRise => Sys2Proof.Machine.execSRise s
  | .sSilence => Sys2Proof.Machine.execSSilence s
  | .sGuard => Sys2Proof.Machine.execSGuard s
  | .sHold => Sys2Proof.Machine.execSHold s
  | .aEmitDc => Sys2Proof.Machine.execAEmitDc s
  | .aDropDc => Sys2Proof.Machine.execADropDc s
  | .fHold => Sys2Proof.Machine.execFHold s
  | .fFall => Sys2Proof.Machine.execFFall s
  | .iWait => Sys2Proof.Machine.execIWait s
  | .iSample level => Sys2Proof.Machine.execISample level s
  | .nTimeout => Sys2Proof.Machine.execNTimeout s
  | .nEdge level => Sys2Proof.Machine.execNEdge level s
  | .nWait => Sys2Proof.Machine.execNWait s
  | .tWait => Sys2Proof.Machine.execTWait s
  | .tSample level => Sys2Proof.Machine.execTSample level s
  | .aEmitSc => Sys2Proof.Machine.execAEmitSc s
  | .aDropSc => Sys2Proof.Machine.execADropSc s

end Sys2Proof.Machine
end

