-- ==== Sys2Proof/WellFormed.lean ====
section
/-! DEFINITION. Which terms of the syntax stand for something the spec writes. -/

namespace Sys2Proof

/-- Well-formedness of an operation. Rule R71 gives the operations no operand field that could hold an illegal
value: the one operand is the level, a single bit, so every term is well formed. One line per constructor, so that
a new operation cannot slip past. -/
def Instr.wf : Instr → Bool
  | .reset => true
  | .qIdle => true
  | .qRiseDc => true
  | .qRiseSc => true
  | .mHold => true
  | .mFallCal => true
  | .mFallLong => true
  | .mFallShort => true
  | .sRise => true
  | .sSilence => true
  | .sGuard => true
  | .sHold => true
  | .aEmitDc => true
  | .aDropDc => true
  | .fHold => true
  | .fFall => true
  | .iWait => true
  | .iSample _ => true
  | .nTimeout => true
  | .nEdge _ => true
  | .nWait => true
  | .tWait => true
  | .tSample _ => true
  | .aEmitSc => true
  | .aDropSc => true

/-- Rules R78 and R79: run lengths and the half bit cell are at least one sample. -/
def Stim.wf : Stim → Bool
  | .high n => 1 ≤ n
  | .low n => 1 ≤ n
  | .pulse n m => 1 ≤ n && 1 ≤ m
  | .manch t _ => 1 ≤ t

/-- Rule R78: every item of a stimulus is well formed. -/
def Stimulus.wf (p : Stimulus) : Bool :=
  p.items.all Stim.wf

/-- Rules R70, R76: the flag fields of a selector word that some state with `d >= 1` can compute. A word that fails
this check still decodes by the table (rule R76); the check is what U4 lists. -/
def Selector.computable (q : Selector) : Bool :=
  (!q.g || q.w) &&
  (if q.k then (!q.w || q.h) && (!q.o || q.g) && (!q.z || q.o)
   else q.h && q.w && q.g && q.o && q.z)

end Sys2Proof
end

