-- ==== Sys2Proof/Decode.lean ====
section
/-! DEFINITION. The decoder and the encoder of selector words (30_encoding.md), over the table of rule R74. -/

namespace Sys2Proof

/-- Rule R73: `0` is duration-coded, `1` self-clocking. -/
def Variant.code : Variant → Bool
  | .dc => false
  | .sc => true

/-- Rule R73, read backwards. -/
def Variant.ofCode (b : Bool) : Variant :=
  if b then .sc else .dc

/-- The state codes of rule R72. -/
def DecoderState.code : DecoderState → BitVec 3
  | .quiet => 0b000
  | .mark => 0b001
  | .space => 0b010
  | .abort => 0b011
  | .firstmark => 0b100
  | .inmessage => 0b101
  | .needchange => 0b110
  | .tickwait => 0b111

/-- Rule R72, read backwards; the eight names fill the three bits. -/
def DecoderState.ofCode (c : BitVec 3) : DecoderState :=
  match c.toNat with
  | 0 => .quiet
  | 1 => .mark
  | 2 => .space
  | 3 => .abort
  | 4 => .firstmark
  | 5 => .inmessage
  | 6 => .needchange
  | _ => .tickwait

/-- The selector word of rule R70: `R V S[2:0] L K X H W G O Z F`, bit 13 first. -/
def Selector.word (q : Selector) : SelWord :=
  BitVec.ofBool q.r ++ BitVec.ofBool q.v.code ++ q.st.code ++ BitVec.ofBool q.l ++
    BitVec.ofBool q.k ++ BitVec.ofBool q.x ++ BitVec.ofBool q.h ++ BitVec.ofBool q.w ++
    BitVec.ofBool q.g ++ BitVec.ofBool q.o ++ BitVec.ofBool q.z ++ BitVec.ofBool q.f

/-- The fields of a selector word, at the bit positions of rule R70. -/
def Selector.ofWord (w : SelWord) : Selector where
  r := w.getLsbD 13
  v := Variant.ofCode (w.getLsbD 12)
  st := DecoderState.ofCode (w.extractLsb' 9 3)
  l := w.getLsbD 8
  k := w.getLsbD 7
  x := w.getLsbD 6
  h := w.getLsbD 5
  w := w.getLsbD 4
  g := w.getLsbD 3
  o := w.getLsbD 2
  z := w.getLsbD 1
  f := w.getLsbD 0

/-- One row of the operation table: the word must agree with `pattern` on the bits of `mask`; `instr` is the operation,
given the level bit of the word. -/
structure Row where
  mask : SelWord
  pattern : SelWord
  instr : Bool → Instr

/-- A word matches a row when `(sel & mask) == match` (rule R70). -/
def Row.matches (row : Row) (w : SelWord) : Bool :=
  w &&& row.mask == row.pattern

/-- The complete operation table of rule R74 (opcode_table.json), row by row. -/
def table : List Row :=
  [ ⟨0x2000, 0x2000, fun _ => .reset⟩,  -- RESET 1vssslkxhwgozf, R91
    ⟨0x2F00, 0x0000, fun _ => .qIdle⟩,  -- Q_IDLE 0v0000kxhwgozf, R92
    ⟨0x3F00, 0x0100, fun _ => .qRiseDc⟩,  -- Q_RISE_DC 000001kxhwgozf, R93
    ⟨0x3F00, 0x1100, fun _ => .qRiseSc⟩,  -- Q_RISE_SC 010001kxhwgozf, R94
    ⟨0x3F00, 0x0300, fun _ => .mHold⟩,  -- M_HOLD 000011kxhwgozf, R100
    ⟨0x3F80, 0x0200, fun _ => .mFallCal⟩,  -- M_FALL_CAL 0000100xhwgozf, R101
    ⟨0x3F88, 0x0288, fun _ => .mFallLong⟩,  -- M_FALL_LONG 0000101xhw1ozf, R102
    ⟨0x3F88, 0x0280, fun _ => .mFallShort⟩,  -- M_FALL_SHORT 0000101xhw0ozf, R103
    ⟨0x3F00, 0x0500, fun _ => .sRise⟩,  -- S_RISE 000101kxhwgozf, R104
    ⟨0x3F82, 0x0482, fun _ => .sSilence⟩,  -- S_SILENCE 0001001xhwgo1f, R105
    ⟨0x3F80, 0x0400, fun _ => .sGuard⟩,  -- S_GUARD 0001000xhwgozf, R106
    ⟨0x3F82, 0x0480, fun _ => .sHold⟩,  -- S_HOLD 0001001xhwgo0f, R107
    ⟨0x3E01, 0x0601, fun _ => .aEmitDc⟩,  -- A_EMIT_DC 00011lkxhwgoz1, R143
    ⟨0x3E01, 0x0600, fun _ => .aDropDc⟩,  -- A_DROP_DC 00011lkxhwgoz0, R144
    ⟨0x3F00, 0x1900, fun _ => .fHold⟩,  -- F_HOLD 011001kxhwgozf, R120
    ⟨0x3F00, 0x1800, fun _ => .fFall⟩,  -- F_FALL 011000kxhwgozf, R121
    ⟨0x3EA0, 0x1A80, fun _ => .iWait⟩,  -- I_WAIT 01101l1x0wgozf, R122
    ⟨0x3EA0, 0x1AA0, fun l => .iSample l⟩,  -- I_SAMPLE 01101l1x1wgozf, R123
    ⟨0x3E84, 0x1C84, fun _ => .nTimeout⟩,  -- N_TIMEOUT 01110l1xhwg1zf, R124
    ⟨0x3EC4, 0x1CC0, fun l => .nEdge l⟩,  -- N_EDGE 01110l11hwg0zf, R125
    ⟨0x3EC4, 0x1C80, fun _ => .nWait⟩,  -- N_WAIT 01110l10hwg0zf, R126
    ⟨0x3E90, 0x1E80, fun _ => .tWait⟩,  -- T_WAIT 01111l1xh0gozf, R127
    ⟨0x3E90, 0x1E90, fun l => .tSample l⟩,  -- T_SAMPLE 01111l1xh1gozf, R128
    ⟨0x3E01, 0x1601, fun _ => .aEmitSc⟩,  -- A_EMIT_SC 01011lkxhwgoz1, R145
    ⟨0x3E01, 0x1600, fun _ => .aDropSc⟩ ]  -- A_DROP_SC 01011lkxhwgoz0, R146

/-- The level bit of a selector word (rule R70: bit 8). -/
def levelBit (w : SelWord) : Bool :=
  w.getLsbD 8

/-- The class of rule R75 to which a word that matches no row belongs. -/
def reservedClass (w : SelWord) : Reserved :=
  let q := Selector.ofWord w
  match q.v, q.st with
  | .dc, _ => .scStateInDc
  | .sc, .mark => .dcStateInSc
  | .sc, .space => .dcStateInSc
  | .sc, _ => .uncalibratedSc

/-- Rule R74: the operation a selector word selects. The match sets are disjoint, so the order of the rows does not
matter. A word of the reserved space is refused by the name of its class (rule R75). -/
def decode (w : SelWord) : Except Reserved Instr :=
  match table.find? (·.matches w) with
  | some row => .ok (row.instr (levelBit w))
  | none => .error (reservedClass w)

/-- The decoder on any number: a selector word has 14 bits (rule R70), so a number with a higher bit is refused. -/
def decodeNat (w : Nat) : Except Reserved Instr :=
  if w < 2 ^ 14 then decode (BitVec.ofNat 14 w) else .error .tooWide

/-- What the decoder reads from a table word of `nbits` bits, numbered as opcode_table.json numbers them. Every row is one
14-bit word, so two whole bytes hold it and their two top bits are 0 (assumption 12). -/
def decodeTableWord (nbits w : Nat) : Option Instr :=
  match decodeNat (w % 2 ^ nbits) with
  | .ok i => some i
  | .error _ => none

/-- The level operand at its place, bit 8 (rule R70). -/
def levelField (l : Bool) : SelWord :=
  if l then 0x0100 else 0x0000

/-- The selector word of an operation: the row's match value of rule R74 with the level operand at bit 8. The bits the
operation does not look at are 0. -/
def encode : Instr → SelWord
  | .reset => 0x2000
  | .qIdle => 0x0000
  | .qRiseDc => 0x0100
  | .qRiseSc => 0x1100
  | .mHold => 0x0300
  | .mFallCal => 0x0200
  | .mFallLong => 0x0288
  | .mFallShort => 0x0280
  | .sRise => 0x0500
  | .sSilence => 0x0482
  | .sGuard => 0x0400
  | .sHold => 0x0480
  | .aEmitDc => 0x0601
  | .aDropDc => 0x0600
  | .fHold => 0x1900
  | .fFall => 0x1800
  | .iWait => 0x1A80
  | .iSample l => 0x1AA0 ||| levelField l
  | .nTimeout => 0x1C84
  | .nEdge l => 0x1CC0 ||| levelField l
  | .nWait => 0x1C80
  | .tWait => 0x1E80
  | .tSample l => 0x1E90 ||| levelField l
  | .aEmitSc => 0x1601
  | .aDropSc => 0x1600

end Sys2Proof
end

