-- ==== Sys2Proof/Machine/Select.lean ====
section
/-! DEFINITION. How a step comes to its operation: the pins of the clock cycle, the selector word formed from them and the
registers (rule R70), and the same run backwards, a state in which a given word's operation is selected. -/

namespace Sys2Proof.Machine

/-- A clock edge: the next pins of the environment's stream are on the ports, and the outputs of the last step are gone
(rules R37, R183 (f)). A stream that has ended presents nothing more (rule R194, assumption 1). -/
def State.present (s : State) : State :=
  match s.stream with
  | [] => { s with pins := Pins.idle, out := Out.none }
  | p :: ps => { s with pins := p, stream := ps, out := Out.none }

/-- The fields of the selector word, from the pins, the registers at the start of the step and the flags (rules R70, R90 (2)). -/
def State.selector (s : State) : Selector where
  r := s.pins.rst
  v := s.variant
  st := s.state
  l := s.pins.level
  k := s.flagK
  x := s.flagX
  h := s.flagH
  w := s.flagW
  g := s.flagG
  o := s.flagO
  z := s.flagZ
  f := s.flagF

/-- The selector word of rule R70. -/
def State.selectorWord (s : State) : SelWord :=
  s.selector.word

/-- A tick of four samples if `k`, else an unknown tick, and `d` samples since the last change (`d` at least 1). -/
def State.placeTick (s : State) (k : Bool) (d : Nat) : State :=
  { s with ticklength := if k then 4 else 0, sampleIndex := s.lastchange + d - 1 }

/-- The state changed so that the operation of `q` is the one selected, and in nothing else: the registers are set on which the
row of rule R74 depends (with a tick of four samples, `d` is 1, 2, 6, 7, 9 or 201 according to the one flag the state's rows
look at). Assumption 13. -/
def State.placeSelector (s : State) (q : Selector) : State :=
  if q.r then s
  else
    let t := { s with variant := q.v, state := q.st }
    match q.st with
    | .quiet => t
    | .mark => if q.l then t else t.placeTick q.k (if q.g then 7 else 1)
    | .space => if q.l then t else t.placeTick q.k (if q.z then 201 else 1)
    | .abort =>
      match q.f, q.v with
      | false, _ => { t with bytes := [] }
      | true, .dc => { t with bytes := [0x00] }
      | true, .sc => { t with bytes := [0xF0, 0x00] }
    | .firstmark => t
    | .inmessage => t.placeTick q.k (if q.h then 2 else 1)
    | .needchange => { t.placeTick q.k (if q.o then 9 else 1) with lastlevel := q.l != q.x }
    | .tickwait => t.placeTick q.k (if q.w then 6 else 1)

/-- The pins of a clock cycle that selects by `q`: the reset pin and the level of the word, with a sample presented. -/
def selectorPins (q : Selector) (cfg : Variant) : Pins where
  rst := q.r
  cfgVariant := cfg
  sampleValid := true
  level := q.l

/-- The state in which the very next step runs the operation that the word selects (assumption 13). -/
def State.placeWord (s : State) (w : SelWord) : State :=
  let q := Selector.ofWord w
  { s.placeSelector q with stream := selectorPins q s.variant :: s.stream }

end Sys2Proof.Machine
end

