-- ==== Sys2Proof/Machine/Stimulus.lean ====
section
/-! DEFINITION. The level streams that the stimulus notation stands for (rules R78, R79), and how one is put before the
core. -/

namespace Sys2Proof.Machine

/-- Eight bits of a byte, most significant first (`BYTE(v)`, rule R79). -/
def byteToBits (v : Byte) : List Bool :=
  [v.getLsbD 7, v.getLsbD 6, v.getLsbD 5, v.getLsbD 4, v.getLsbD 3, v.getLsbD 2, v.getLsbD 1, v.getLsbD 0]

/-- The bits an entry of a `MANCH` list stands for. -/
def manchBits : ManchItem → List Bool
  | .bit b => [b]
  | .byte v => byteToBits v

/-- The two half cells of one bit: `L<T> H<T>` for 1, `H<T> L<T>` for 0 (rule R79). -/
def manchCell (t : Nat) (b : Bool) : List Bool :=
  List.replicate t (!b) ++ List.replicate t b

/-- The levels one word of the notation expands to, the first sample first. -/
def stimLevels : Stim → List Bool
  | .high n => List.replicate n true
  | .low n => List.replicate n false
  | .pulse n m => List.replicate n true ++ List.replicate m false
  | .manch t items => List.replicate t true ++ (items.flatMap manchBits).flatMap (manchCell t)

/-- The pins of a clock cycle that presents one sample. -/
def Pins.sample (level : Bool) : Pins where
  rst := false
  cfgVariant := .dc
  sampleValid := true
  level := level

/-- The pins of a clock cycle of hard reset into a variant (rule R91). -/
def Pins.hardReset (v : Variant) : Pins where
  rst := true
  cfgVariant := v
  sampleValid := false
  level := false

/-- A level stream as clock cycles, one sample in each. -/
def samples (levels : List Bool) : List Pins :=
  levels.map Pins.sample

/-- A stimulus as clock cycles: the hard reset its tag names, then its levels (rules R78, R183 (a)). -/
def stimulusPins (p : Stimulus) : List Pins :=
  Pins.hardReset p.variant :: samples (p.items.flatMap stimLevels)

/-- The environment will present the stimulus next, after what it has announced already (assumption 3). -/
def State.feed (s : State) (p : Stimulus) : State :=
  { s with stream := s.stream ++ stimulusPins p }

end Sys2Proof.Machine
end

