-- ==== Sys2Proof/Machine/Step.lean ====
section
/-! DEFINITION. One clock edge of VWK-CORE. -/

namespace Sys2Proof.Machine

/-- One rising clock edge (rules R37, R90, R95): the pins are presented; without a hard reset and without a sample nothing
more happens; else the selector word is formed and the one operation it selects is performed. A word of the reserved space
is refused (rule R75). -/
def step (s : State) : Host.Outcome State Fault Refusal :=
  let t := s.present
  if t.active then
    match decode t.selectorWord with
    | .ok i => exec i t
    | .error why => .refused (.reservedSelector why)
  else .next t

/-- The state in which the next step selects by the table word `w` of `nbits` bits (assumption 13). -/
def State.withFetchWord (s : State) (nbits w : Nat) : State :=
  s.placeWord (BitVec.ofNat 14 (w % 2 ^ nbits))

end Sys2Proof.Machine
end

