-- ==== Sys2Proof/Safety.lean ====
section
/-! DEFINITION. What counts as a good state and a good run: the invariants of rule R35, the state graphs of rules R108 and
R129, the timer bounds, the observation of a run, and the bits of a Message as bytes. The terms claims are stated in. -/

namespace Sys2Proof.Safety

open Sys2Proof.Machine

/-! ## Invariants (rule R35) -/

/-- I1: between steps `lastchange <= sample_index`. -/
abbrev I1 (s : State) : Prop :=
  s.lastchange ≤ s.sampleIndex

/-- I2: in `QUIET` every per-message field but `sample_index` has its reset value. -/
abbrev I2 (s : State) : Prop :=
  s.state = .quiet →
    s.lastchange = 0 ∧ s.ticklength = 0 ∧ s.lastlevel = false ∧ s.bitacc = 0 ∧ s.bitcount = 0 ∧ s.bytes = []

/-- I3: the states of each variant. -/
abbrev I3 (s : State) : Prop :=
  (s.variant = .dc → s.state ∈ [DecoderState.quiet, .mark, .space, .abort]) ∧
  (s.variant = .sc → s.state ∈ [DecoderState.quiet, .firstmark, .inmessage, .needchange, .tickwait, .abort])

/-- I4: the tick is known wherever it is compared with. -/
abbrev I4 (s : State) : Prop :=
  s.state ∈ [DecoderState.space, .abort, .inmessage, .needchange, .tickwait] → 1 ≤ s.ticklength

/-- I5: in `FIRSTMARK` nothing has been calibrated or pushed. -/
abbrev I5 (s : State) : Prop :=
  s.state = .firstmark → s.ticklength = 0 ∧ s.bitcount = 0 ∧ s.bytes = []

/-- The number of bits pushed in the current Message (I10): `8*len(bytes) + bitcount`. -/
abbrev bitsPushed (s : State) : Nat :=
  8 * s.bytes.length + s.bitcount.toNat

/-- I6: in `MARK` the tick is unknown exactly when no bit of this Message has been pushed yet. -/
abbrev I6 (s : State) : Prop :=
  s.state = .mark → (s.ticklength = 0 ↔ bitsPushed s = 0)

/-- I7: the accumulator holds `bitcount` bits, at most seven, and nothing above them. -/
abbrev I7 (s : State) : Prop :=
  s.bitcount.toNat ≤ 7 ∧ s.bitacc.toNat < 2 ^ s.bitcount.toNat

/-- I9: the first byte of a self-clocking Message is at least 0x80, because its first bit is 1. -/
abbrev I9 (s : State) : Prop :=
  s.variant = .sc → ∀ b ∈ s.bytes.head?, 0x80 ≤ b.toNat

/-- Rule R26: in the duration-coded variant `lastlevel` stays 0. -/
abbrev lastlevelLow (s : State) : Prop :=
  s.variant = .dc → s.lastlevel = false

/-- Rules R101 and R121: `lastchange` is 0 until the first pulse of a Message has ended. -/
abbrev originKept (s : State) : Prop :=
  (s.state = .firstmark ∨ s.state = .mark ∧ s.ticklength = 0) → s.lastchange = 0

/-- What I9 rests on before the first byte is complete: the oldest bit held in the accumulator is 1. -/
abbrev firstBitHigh (s : State) : Prop :=
  s.state ∈ [DecoderState.inmessage, .needchange, .tickwait, .abort] → s.variant = .sc → s.bytes = [] →
    1 ≤ s.bitcount.toNat ∧ 2 ^ (s.bitcount.toNat - 1) ≤ s.bitacc.toNat

/-- What I6 rests on: `SPACE` comes after at least one bit. -/
abbrev spaceAfterBit (s : State) : Prop :=
  s.state = .space → 1 ≤ bitsPushed s

/-- The invariants of rule R35 that are about one state, with the four facts above that make them inductive. -/
abbrev Invariants (s : State) : Prop :=
  I1 s ∧ I2 s ∧ I3 s ∧ I4 s ∧ I5 s ∧ I6 s ∧ I7 s ∧ I9 s ∧
    lastlevelLow s ∧ originKept s ∧ firstBitHigh s ∧ spaceAfterBit s

/-- How far each timer has run between steps (rules R105, R122, R124, R127): a wait ends, or a timeout fires, on the first
sample past its bound. -/
abbrev TimersInBounds (s : State) : Prop :=
  (s.state = .space → s.sampleIndex ≤ s.lastchange + 50 * s.ticklength) ∧
  (s.state = .inmessage → 2 * (s.sampleIndex - s.lastchange) < s.ticklength) ∧
  (s.state = .needchange → s.sampleIndex ≤ s.lastchange + 2 * s.ticklength) ∧
  (s.state = .tickwait → 2 * (s.sampleIndex - s.lastchange) < 3 * s.ticklength) ∧
  (s.state = .abort → s.variant = .dc → s.sampleIndex = s.lastchange + 50 * s.ticklength + 1) ∧
  (s.state = .abort → s.variant = .sc → s.sampleIndex = s.lastchange + 2 * s.ticklength + 1)

/-- The runs a finite implementation follows (U1, U2): the counter below `2^IDX_W` outside `QUIET`, and at most `FRAME_CAP`
bytes. -/
abbrev WithinLimits (l : Limits) (s : State) : Prop :=
  (s.state ≠ .quiet → s.sampleIndex < 2 ^ l.idxWidth) ∧ s.bytes.length ≤ l.frameCap

/-! ## The state graphs -/

/-- Every transition with the operation that makes it: rule R108 for the duration-coded variant, rule R129 for the
self-clocking one. -/
def arrow : Variant → DecoderState → Instr → DecoderState → Bool
  | _, _, .reset, .quiet => true
  | _, .quiet, .qIdle, .quiet => true
  | .dc, .quiet, .qRiseDc, .mark => true
  | .dc, .mark, .mHold, .mark => true
  | .dc, .mark, .mFallCal, .space => true
  | .dc, .mark, .mFallLong, .space => true
  | .dc, .mark, .mFallShort, .space => true
  | .dc, .space, .sHold, .space => true
  | .dc, .space, .sGuard, .space => true
  | .dc, .space, .sRise, .mark => true
  | .dc, .space, .sSilence, .abort => true
  | .dc, .abort, .aEmitDc, .quiet => true
  | .dc, .abort, .aDropDc, .quiet => true
  | .sc, .quiet, .qRiseSc, .firstmark => true
  | .sc, .firstmark, .fHold, .firstmark => true
  | .sc, .firstmark, .fFall, .inmessage => true
  | .sc, .inmessage, .iWait, .inmessage => true
  | .sc, .inmessage, .iSample _, .needchange => true
  | .sc, .needchange, .nWait, .needchange => true
  | .sc, .needchange, .nEdge _, .tickwait => true
  | .sc, .needchange, .nTimeout, .abort => true
  | .sc, .tickwait, .tWait, .tickwait => true
  | .sc, .tickwait, .tSample _, .needchange => true
  | .sc, .abort, .aEmitSc, .quiet => true
  | .sc, .abort, .aDropSc, .quiet => true
  | _, _, _, _ => false

/-- The bits an operation's selector word is decided by: the mask of its row in rule R74, and bit 8 for the three operations
that take the level as data (rule R71). -/
def careMask : Instr → SelWord
  | .reset => 0x2000
  | .qIdle => 0x2F00
  | .qRiseDc => 0x3F00
  | .qRiseSc => 0x3F00
  | .mHold => 0x3F00
  | .mFallCal => 0x3F80
  | .mFallLong => 0x3F88
  | .mFallShort => 0x3F88
  | .sRise => 0x3F00
  | .sSilence => 0x3F82
  | .sGuard => 0x3F80
  | .sHold => 0x3F82
  | .aEmitDc => 0x3E01
  | .aDropDc => 0x3E01
  | .fHold => 0x3F00
  | .fFall => 0x3F00
  | .iWait => 0x3EA0
  | .iSample _ => 0x3FA0
  | .nTimeout => 0x3E84
  | .nEdge _ => 0x3FC4
  | .nWait => 0x3EC4
  | .tWait => 0x3E90
  | .tSample _ => 0x3F90
  | .aEmitSc => 0x3E01
  | .aDropSc => 0x3E01

/-! ## The nine fields, and the step as a change of them -/

/-- Two states have the same state record of rule R20. -/
abbrev SameRecord (s t : State) : Prop :=
  s.variant = t.variant ∧ s.state = t.state ∧ s.sampleIndex = t.sampleIndex ∧ s.lastchange = t.lastchange ∧
  s.ticklength = t.ticklength ∧ s.lastlevel = t.lastlevel ∧ s.bitacc = t.bitacc ∧ s.bitcount = t.bitcount ∧
  s.bytes = t.bytes

/-- One bit shifted into the accumulator, and on the eighth a byte appended and reported (rule R140). -/
abbrev BitPushed (b : Bool) (s t : State) : Prop :=
  t.out.bit = some b ∧
  (s.bitcount = 7 →
    t.bitacc = 0 ∧ t.bitcount = 0 ∧
    t.bytes = s.bytes ++ [BitVec.ofNat 8 (2 * s.bitacc.toNat + b.toNat)] ∧
    t.out.byte = some (BitVec.ofNat 8 (2 * s.bitacc.toNat + b.toNat))) ∧
  (s.bitcount ≠ 7 →
    t.bitacc.toNat = (2 * s.bitacc.toNat + b.toNat) % 256 ∧ t.bitcount.toNat = s.bitcount.toNat + 1 ∧
    t.bytes = s.bytes ∧ t.out.byte = none)

/-- A sample that records a change and pushes the bit `b` on the way to `target` (rules R101 to R103, R121, R125), but for
`ticklength`. -/
abbrev EdgeEffect (b : Bool) (target : DecoderState) (s t : State) : Prop :=
  t.state = target ∧ t.sampleIndex = s.sampleIndex + 1 ∧ t.lastchange = s.sampleIndex + 1 ∧ BitPushed b s t ∧
  t.out.frame = none ∧ t.variant = s.variant ∧ t.lastlevel = s.lastlevel ∧ t.pins = s.pins ∧ t.stream = s.stream

/-- The environment presents the sample `level` in the next clock cycle. -/
abbrev NextSample (s : State) (level : Bool) : Prop :=
  s.present.pins.rst = false ∧ s.present.pins.sampleValid = true ∧ s.present.pins.level = level

/-- Every index of the Byte Sequence reads as before. -/
abbrev MemoryKept (s t : State) : Prop :=
  ∀ k, Memory.read t.bytes k = Memory.read s.bytes k

/-! ## Runs -/

/-- The state after `n` clock cycles, up to a stop. -/
def run : Nat → State → Host.Outcome State Fault Refusal
  | 0, s => .next s
  | n + 1, s =>
    match step s with
    | .next t => run n t
    | .fault r => .fault r
    | .refused r => .refused r

/-- The outputs of the next `n` clock cycles, in order, up to a stop (rule R7: "the observation of a run is the sequence of
outputs"). -/
def outputs : Nat → State → List Out
  | 0, _ => []
  | n + 1, s =>
    match step s with
    | .next t => t.out :: outputs n t
    | .fault _ => []
    | .refused _ => []

/-- The bits among the outputs of a run. -/
def bitsOf (os : List Out) : List Bool :=
  os.filterMap (·.bit)

/-- The frames among the outputs of a run. -/
def framesOf (os : List Out) : List Memory :=
  os.filterMap (·.frame)

/-! ## Bits as bytes (rule R53) -/

/-- Bits as a number, the first the most significant. -/
def bitsValue (bs : List Bool) : Nat :=
  bs.foldl (fun a b => 2 * a + b.toNat) 0

/-- Rule R53, one byte: `b_0*128 + b_1*64 + ... + b_7`. -/
def byteOfBits (b0 b1 b2 b3 b4 b5 b6 b7 : Bool) : Byte :=
  BitVec.ofNat 8 (b0.toNat * 128 + b1.toNat * 64 + b2.toNat * 32 + b3.toNat * 16 + b4.toNat * 8 + b5.toNat * 4 +
    b6.toNat * 2 + b7.toNat)

/-- Rule R53: the bytes that the bits of a Message complete, in order; bits after the last multiple of eight complete none. -/
def packBytes : List Bool → Memory
  | b0 :: b1 :: b2 :: b3 :: b4 :: b5 :: b6 :: b7 :: bs => byteOfBits b0 b1 b2 b3 b4 b5 b6 b7 :: packBytes bs
  | _ => []

/-- The bits after the last multiple of eight (rule R55). -/
def leftoverBits (bs : List Bool) : List Bool :=
  bs.drop (8 * (bs.length / 8))

/-- The Frame Assembler holds exactly the bits `bs` of the current Message (rules R27, R53, R55; I10). -/
abbrev Holds (bs : List Bool) (s : State) : Prop :=
  s.bytes = packBytes bs ∧ s.bitcount.toNat = bs.length % 8 ∧ s.bitacc.toNat = bitsValue (leftoverBits bs)

/-! ## Level streams of Messages -/

/-- The levels of a duration-coded Message: the calibrating pulse, then each later pulse behind its gap (rule R110). -/
def dcLevels (t : Nat) (pulses : List (Nat × Nat)) : List Bool :=
  List.replicate t true ++ pulses.flatMap fun p => List.replicate p.1 false ++ List.replicate p.2 true

/-- The bits of that Message (rule R110). -/
def dcBits (t : Nat) (pulses : List (Nat × Nat)) : List Bool :=
  false :: pulses.map fun p => decide (2 * p.2 > 3 * t)

/-- The levels of `MANCH(T; b_1 b_2 ...)` (rule R79). -/
def scLevels (t : Nat) (bits : List Bool) : List Bool :=
  List.replicate t true ++ bits.flatMap (manchCell t)

end Sys2Proof.Safety
end

