-- ==== Sys2Proof/Certificates/Slice0/Obligations.lean ====
section
/-! DEFINITION. The statements for the provers. They are about the machine, never about one program. -/

open Sys2Proof Sys2Proof.Machine Sys2Proof.Safety

/-! ## Encoding -/

/-- Rules R70, R71, R74. A word selects an operation exactly when it agrees with the operation's own word on the bits the
operation looks at; so the encoded word decodes back, and every other bit is free. -/
def Obligations.SelectorDecodesExactlyItsRow : Prop :=
  ∀ (i : Instr) (w : SelWord), i.wf = true → (decode w = .ok i ↔ w &&& careMask i = encode i)

/-- Rules R74, R75. Every word of the reserved space is refused under its class, and every other word selects an operation. -/
def Obligations.ReservedSpaceIsExactlyRefused : Prop :=
  ∀ w : SelWord,
    let q := Selector.ofWord w
    (q.r = true → decode w = .ok .reset) ∧
    (q.r = false → q.v = .dc →
      q.st ∈ [DecoderState.firstmark, .inmessage, .needchange, .tickwait] → decode w = .error .scStateInDc) ∧
    (q.r = false → q.v = .sc → q.st ∈ [DecoderState.mark, .space] → decode w = .error .dcStateInSc) ∧
    (q.r = false → q.v = .sc → q.st ∈ [DecoderState.inmessage, .needchange, .tickwait] → q.k = false →
      decode w = .error .uncalibratedSc) ∧
    (q.r = false → q.v = .dc → q.st ∈ [DecoderState.quiet, .mark, .space, .abort] → ∃ i, decode w = .ok i) ∧
    (q.r = false → q.v = .sc → q.st ∈ [DecoderState.quiet, .firstmark, .abort] → ∃ i, decode w = .ok i) ∧
    (q.r = false → q.v = .sc → q.st ∈ [DecoderState.inmessage, .needchange, .tickwait] → q.k = true →
      ∃ i, decode w = .ok i)

/-- Rules R70, R31, R72, R73, R77, R141, R142. Each bit of the selector word, in numbers; `lastchange` is at most `idx`, which
is where rule R30 defines `d`. -/
def Obligations.SelectorWordLayout : Prop :=
  ∀ s : State, s.lastchange ≤ s.sampleIndex + 1 →
    let d := s.sampleIndex + 1 - s.lastchange
    let w := s.selectorWord
    w.getLsbD 13 = s.pins.rst ∧
    (w.getLsbD 12 = true ↔ s.variant = .sc) ∧
    w.extractLsb' 9 3 =
      (match s.state with
        | .quiet => 0
        | .mark => 1
        | .space => 2
        | .abort => 3
        | .firstmark => 4
        | .inmessage => 5
        | .needchange => 6
        | .tickwait => 7) ∧
    w.getLsbD 8 = s.pins.level ∧
    (w.getLsbD 7 = true ↔ s.ticklength ≠ 0) ∧
    (w.getLsbD 6 = true ↔ s.pins.level ≠ s.lastlevel) ∧
    (w.getLsbD 5 = true ↔ 2 * d ≥ s.ticklength) ∧
    (w.getLsbD 4 = true ↔ 2 * d ≥ 3 * s.ticklength) ∧
    (w.getLsbD 3 = true ↔ 2 * d > 3 * s.ticklength) ∧
    (w.getLsbD 2 = true ↔ d > 2 * s.ticklength) ∧
    (w.getLsbD 1 = true ↔ d > 50 * s.ticklength) ∧
    (s.variant = .dc → (w.getLsbD 0 = true ↔ s.bytes.length ≥ 1)) ∧
    (s.variant = .sc → (w.getLsbD 0 = true ↔
      s.bytes.length ≥ 2 ∧ ∃ b, Memory.read s.bytes 0 = some b ∧ b.toNat / 16 = 0xF))

/-- Rule R76. The relations between the flags of one state; so the flag fields that a state with `d >= 1` computes are never
contradictory. -/
def Obligations.ContradictoryFlagsNeverComputed : Prop :=
  ∀ s : State,
    (s.flagG = true → s.flagW = true) ∧
    (s.flagK = true →
      (s.flagW = true → s.flagH = true) ∧ (s.flagO = true → s.flagG = true) ∧ (s.flagZ = true → s.flagO = true)) ∧
    (s.flagK = false → 1 ≤ s.elapsed →
      s.flagH = true ∧ s.flagW = true ∧ s.flagG = true ∧ s.flagO = true ∧ s.flagZ = true) ∧
    (1 ≤ s.elapsed → s.selector.computable = true)

/-- Words written out from the encodings of rule R74, each with the operation it stands for: one or more of every family. -/
def Obligations.WrittenOutWordsDecode : Prop :=
  decode 0b10000000000000 = .ok .reset ∧
  decode 0b01000011111111 = .ok .qIdle ∧
  decode 0b00001011111100 = .ok .mFallLong ∧
  decode 0b00010010111110 = .ok .sSilence ∧
  decode 0b01101110100000 = .ok (.iSample true) ∧
  decode 0b01110011000000 = .ok (.nEdge false) ∧
  decode 0b01011010111101 = .ok .aEmitSc ∧
  decode 0b00100000000000 = .error .scStateInDc

/-- Rules R53, R79. `BYTE(v)` stands for the eight bits of `v`, most significant first, and packing them gives `v` back. -/
def Obligations.ByteBitsPackBack : Prop :=
  ∀ v : Byte, packBytes (byteToBits v) = [v]

/-! ## The step -/

/-- Rule R90. On an active clock edge, when the selector word of the presented state decodes to an operation, the step is that
operation's meaning at that state. -/
def Obligations.StepRunsTheSelectedOperation : Prop :=
  ∀ (s : State) (i : Instr), (s.present.pins.rst = true ∨ s.present.pins.sampleValid = true) → i.wf = true →
    decode s.present.selectorWord = .ok i → step s = exec i s.present

/-- Rule R95. A clock cycle without a reset and without a sample changes no register and produces no event. -/
def Obligations.CycleWithoutSampleDoesNothing : Prop :=
  ∀ (s : State) (p : Pins) (rest : List Pins), s.stream = p :: rest → p.rst = false → p.sampleValid = false →
    step s = .next { s with out := ⟨none, none, none⟩, pins := p, stream := rest }

/-- Assumption 1, the model's choice, after rules R194 and R198: when the environment's stream has ended, every further clock
cycle is one without a sample. -/
def Obligations.EndedStreamIsIdle : Prop :=
  ∀ s : State, s.stream = [] → ∃ t, step s = .next t ∧ SameRecord s t ∧ t.out = ⟨none, none, none⟩ ∧ t.stream = []

/-- Rules R91, R167 (1). The reset pin alone selects `RESET`: from any state, whatever the other pins and the flags are, the
next state is that of a fresh instance. -/
def Obligations.HardResetBeatsEverything : Prop :=
  ∀ (s : State) (p : Pins) (rest : List Pins), s.stream = p :: rest → p.rst = true →
    step s = .next { State.resetWith p.cfgVariant with pins := p, stream := rest }

/-- Assumption 13, the model's own interface: the operation of any word of the table runs in the very next step, from every
state the word is placed in. -/
def Obligations.PlacedWordRunsNext : Prop :=
  ∀ (s : State) (w : SelWord) (i : Instr), decode w = .ok i →
    step (s.withFetchWord 16 w.toNat) = exec i (s.withFetchWord 16 w.toNat).present

/-- Rule R75. A step in a state of the other variant, or in a self-clocking timing state with no tick, is refused: no successor
is picked. -/
def Obligations.ReservedStatesAreRefused : Prop :=
  ∀ (s : State) (l : Bool), NextSample s l →
    (s.variant = .dc → s.state ∈ [DecoderState.firstmark, .inmessage, .needchange, .tickwait] →
      step s = .refused (.reservedSelector .scStateInDc)) ∧
    (s.variant = .sc → s.state ∈ [DecoderState.mark, .space] →
      step s = .refused (.reservedSelector .dcStateInSc)) ∧
    (s.variant = .sc → s.state ∈ [DecoderState.inmessage, .needchange, .tickwait] → s.ticklength = 0 →
      step s = .refused (.reservedSelector .uncalibratedSc))

/-! ## The operations: the words that select them, and what they do -/

/-- Rules R92, R100, R106, R107, R120, R122, R126, R127. The eight operations that wait: each is selected by its row, and no
register other than `sample_index` changes. -/
def Obligations.WaitingOperationsOnlyCount : Prop :=
  (∀ w : SelWord,
    (decode w = .ok .qIdle ↔ w &&& 0x2F00 = 0x0000) ∧ (decode w = .ok .mHold ↔ w &&& 0x3F00 = 0x0300) ∧
    (decode w = .ok .sGuard ↔ w &&& 0x3F80 = 0x0400) ∧ (decode w = .ok .sHold ↔ w &&& 0x3F82 = 0x0480) ∧
    (decode w = .ok .fHold ↔ w &&& 0x3F00 = 0x1900) ∧ (decode w = .ok .iWait ↔ w &&& 0x3EA0 = 0x1A80) ∧
    (decode w = .ok .nWait ↔ w &&& 0x3EC4 = 0x1C80) ∧ (decode w = .ok .tWait ↔ w &&& 0x3E90 = 0x1E80)) ∧
  ∀ i ∈ [Instr.qIdle, .mHold, .sGuard, .sHold, .fHold, .iWait, .nWait, .tWait], ∀ s : State,
    exec i s = .next { s with sampleIndex := s.sampleIndex + 1, out := ⟨none, none, none⟩ }

/-- Rules R93, R94. A Message begins: the first state of the variant, the sample index at 0, and nothing else. -/
def Obligations.MessageBegins : Prop :=
  (∀ w : SelWord,
    (decode w = .ok .qRiseDc ↔ w &&& 0x3F00 = 0x0100) ∧ (decode w = .ok .qRiseSc ↔ w &&& 0x3F00 = 0x1100)) ∧
  ∀ s : State,
    exec .qRiseDc s = .next { s with state := .mark, sampleIndex := 0, out := ⟨none, none, none⟩ } ∧
    exec .qRiseSc s = .next { s with state := .firstmark, sampleIndex := 0, out := ⟨none, none, none⟩ }

/-- Rules R101, R121. The falling edge of the first pulse: `ticklength <- d`, `lastchange <- idx`, the variant's first bit, and
nothing else. (The value of `ticklength` is stated where rule R30 defines `d`.) -/
def Obligations.FirstPulseCalibrates : Prop :=
  (∀ w : SelWord,
    (decode w = .ok .mFallCal ↔ w &&& 0x3F80 = 0x0200) ∧ (decode w = .ok .fFall ↔ w &&& 0x3F00 = 0x1800)) ∧
  ∀ s : State,
    (∃ t, exec .mFallCal s = .next t ∧ EdgeEffect false .space s t ∧
      (s.lastchange ≤ s.sampleIndex + 1 → t.ticklength = s.sampleIndex + 1 - s.lastchange)) ∧
    (∃ t, exec .fFall s = .next t ∧ EdgeEffect true .inmessage s t ∧
      (s.lastchange ≤ s.sampleIndex + 1 → t.ticklength = s.sampleIndex + 1 - s.lastchange))

/-- Rules R102, R103, R125. A decided bit: 1 for a long pulse, 0 for a short one, the new level for a transition; `ticklength`
is kept. -/
def Obligations.LaterEdgesPushTheirBit : Prop :=
  (∀ (w : SelWord) (l : Bool),
    (decode w = .ok .mFallLong ↔ w &&& 0x3F88 = 0x0288) ∧ (decode w = .ok .mFallShort ↔ w &&& 0x3F88 = 0x0280) ∧
    (decode w = .ok (.nEdge l) ↔ w &&& 0x3EC4 = 0x1CC0 ∧ w.getLsbD 8 = l)) ∧
  ∀ (s : State) (l : Bool),
    (∃ t, exec .mFallLong s = .next t ∧ EdgeEffect true .space s t ∧ t.ticklength = s.ticklength) ∧
    (∃ t, exec .mFallShort s = .next t ∧ EdgeEffect false .space s t ∧ t.ticklength = s.ticklength) ∧
    (∃ t, exec (.nEdge l) s = .next t ∧ EdgeEffect l .tickwait s t ∧ t.ticklength = s.ticklength)

/-- Rule R104. The next pulse begins: `lastchange <- idx`, `state <- MARK`, and nothing else. -/
def Obligations.NextPulseBegins : Prop :=
  (∀ w : SelWord, decode w = .ok .sRise ↔ w &&& 0x3F00 = 0x0500) ∧
  ∀ s : State, exec .sRise s = .next { s with
    state := .mark, lastchange := s.sampleIndex + 1, sampleIndex := s.sampleIndex + 1, out := ⟨none, none, none⟩ }

/-- Rules R105, R124, R168. The entry into `ABORT` writes `state` and saves nothing. -/
def Obligations.AbortEntryWritesOnlyState : Prop :=
  (∀ w : SelWord,
    (decode w = .ok .sSilence ↔ w &&& 0x3F82 = 0x0482) ∧ (decode w = .ok .nTimeout ↔ w &&& 0x3E84 = 0x1C84)) ∧
  ∀ i ∈ [Instr.sSilence, .nTimeout], ∀ s : State,
    exec i s = .next { s with state := .abort, sampleIndex := s.sampleIndex + 1, out := ⟨none, none, none⟩ }

/-- Rules R123, R128. The level is sampled into `lastlevel` and the search for a transition begins. -/
def Obligations.LevelIsSampled : Prop :=
  (∀ (w : SelWord) (l : Bool),
    (decode w = .ok (.iSample l) ↔ w &&& 0x3EA0 = 0x1AA0 ∧ w.getLsbD 8 = l) ∧
    (decode w = .ok (.tSample l) ↔ w &&& 0x3E90 = 0x1E90 ∧ w.getLsbD 8 = l)) ∧
  ∀ (l : Bool), ∀ i ∈ [Instr.iSample l, .tSample l], ∀ s : State,
    exec i s = .next { s with
      state := .needchange, lastlevel := l, sampleIndex := s.sampleIndex + 1, out := ⟨none, none, none⟩ }

/-- Rules R143 to R146, R169. The four handlers of `ABORT`: the whole Byte Sequence is emitted, or nothing; then every
per-message field has its reset value and the variant is kept. -/
def Obligations.AbortHandlersEmitOrDropAndReset : Prop :=
  (∀ w : SelWord,
    (decode w = .ok .aEmitDc ↔ w &&& 0x3E01 = 0x0601) ∧ (decode w = .ok .aDropDc ↔ w &&& 0x3E01 = 0x0600) ∧
    (decode w = .ok .aEmitSc ↔ w &&& 0x3E01 = 0x1601) ∧ (decode w = .ok .aDropSc ↔ w &&& 0x3E01 = 0x1600)) ∧
  ∀ s : State,
    (∀ i ∈ [Instr.aEmitDc, .aEmitSc], exec i s = .next { State.resetWith s.variant with
      out := ⟨none, none, some s.bytes⟩, pins := s.pins, stream := s.stream }) ∧
    (∀ i ∈ [Instr.aDropDc, .aDropSc], exec i s = .next { State.resetWith s.variant with
      out := ⟨none, none, none⟩, pins := s.pins, stream := s.stream })

/-- Rules R91, R180. `RESET` loads `variant` from the pin `cfg_variant` and gives every other field its reset value, without
an output. -/
def Obligations.HardResetMakesFreshInstance : Prop :=
  (∀ w : SelWord, decode w = .ok .reset ↔ w &&& 0x2000 = 0x2000) ∧
  ∀ s : State, exec .reset s = .next {
    variant := s.pins.cfgVariant, state := .quiet, sampleIndex := 0, lastchange := 0, ticklength := 0,
    lastlevel := false, bitacc := 0, bitcount := 0, bytes := [], out := ⟨none, none, none⟩,
    pins := s.pins, stream := s.stream }

/-- Rule R140. `PushBit(b)`: the shift, the count, and on the eighth bit the append; no other field. -/
def Obligations.PushBitShiftsAndCompletes : Prop :=
  ∀ (s : State) (b : Bool), s.out.byte = none →
    let t := s.pushBit b
    BitPushed b s t ∧ t.variant = s.variant ∧ t.state = s.state ∧ t.sampleIndex = s.sampleIndex ∧
    t.lastchange = s.lastchange ∧ t.ticklength = s.ticklength ∧ t.lastlevel = s.lastlevel ∧
    t.out.frame = s.out.frame ∧ t.pins = s.pins ∧ t.stream = s.stream

/-- Rules R34, R147, R181. `ResetAll()` sets every per-message field to its reset value and keeps `variant`. -/
def Obligations.ResetAllClearsTheMessage : Prop :=
  ∀ s : State, s.resetAll = { s with
    state := .quiet, sampleIndex := 0, lastchange := 0, ticklength := 0, lastlevel := false,
    bitacc := 0, bitcount := 0, bytes := [] }

/-! ## Frames -/

/-- Rules R50, R51, R55. The operations that push a bit store to at most one index of the Byte Sequence, the one `storeIndex`
computes, and leave every other index alone; they leave `variant` and `lastlevel` alone too, and all but the calibrating
two leave `ticklength` alone. -/
def Obligations.PushingOperationsFrame : Prop :=
  ∀ (l : Bool), ∀ i ∈ [Instr.mFallCal, .fFall, .mFallLong, .mFallShort, .nEdge l], ∀ s t : State,
    exec i s = .next t →
    (∀ a, s.storeIndex = some a →
      a = s.bytes.length ∧ t.out.byte ≠ none ∧ Memory.read t.bytes a = t.out.byte ∧
      ∀ k, k ≠ a → Memory.read t.bytes k = Memory.read s.bytes k) ∧
    (s.storeIndex = none → t.out.byte = none ∧ MemoryKept s t) ∧
    t.variant = s.variant ∧ t.lastlevel = s.lastlevel ∧ t.pins = s.pins ∧ t.stream = s.stream ∧
    (i ∈ [Instr.mFallLong, .mFallShort, .nEdge l] → t.ticklength = s.ticklength)

/-- The operations that push nothing and reset nothing store nothing: every index of the Byte Sequence reads as before, and
only `state`, `sample_index` and the one register named by the operation's rule change (rules R92 to R94, R100, R104 to R107,
R120, R122 to R124, R126 to R128). -/
def Obligations.OtherOperationsFrame : Prop :=
  ∀ (l : Bool),
    ∀ i ∈ [Instr.qIdle, .qRiseDc, .qRiseSc, .mHold, .sRise, .sSilence, .sGuard, .sHold, .fHold, .iWait, .iSample l,
      .nTimeout, .nWait, .tWait, .tSample l], ∀ s t : State,
    exec i s = .next t →
    MemoryKept s t ∧ t.bitacc = s.bitacc ∧ t.bitcount = s.bitcount ∧ t.variant = s.variant ∧
    t.ticklength = s.ticklength ∧ t.out = ⟨none, none, none⟩ ∧ t.pins = s.pins ∧ t.stream = s.stream ∧
    (i ≠ .sRise → t.lastchange = s.lastchange) ∧
    (i ∉ [Instr.iSample l, .tSample l] → t.lastlevel = s.lastlevel)

/-- Rules R51, R91, R147. The five resetting operations clear every index of the Byte Sequence. -/
def Obligations.ResettingOperationsFrame : Prop :=
  ∀ i ∈ [Instr.reset, .aEmitDc, .aDropDc, .aEmitSc, .aDropSc], ∀ s t : State,
    exec i s = .next t →
    (∀ k, Memory.read t.bytes k = none) ∧ t.pins = s.pins ∧ t.stream = s.stream ∧
    (i ≠ .reset → t.variant = s.variant)

/-! ## Which operation runs, state by state, in the numbers of the rules -/

/-- Rules R92 to R94. `QUIET` looks at the level alone. -/
def Obligations.QuietHandler : Prop :=
  ∀ (s : State) (l : Bool), NextSample s l → s.state = .quiet →
    (l = false → step s = exec .qIdle s.present) ∧
    (l = true → s.variant = .dc → step s = exec .qRiseDc s.present) ∧
    (l = true → s.variant = .sc → step s = exec .qRiseSc s.present)

/-- Rules R100 to R103, R167 (5). `MARK`: the level, then whether the tick is known, then `2*d > 3*T`. -/
def Obligations.MarkHandler : Prop :=
  ∀ (s : State) (l : Bool), NextSample s l → s.variant = .dc → s.state = .mark → s.lastchange ≤ s.sampleIndex →
    let d := s.sampleIndex + 1 - s.lastchange
    (l = true → step s = exec .mHold s.present) ∧
    (l = false → s.ticklength = 0 → step s = exec .mFallCal s.present) ∧
    (l = false → s.ticklength ≠ 0 → 2 * d > 3 * s.ticklength → step s = exec .mFallLong s.present) ∧
    (l = false → s.ticklength ≠ 0 → 2 * d ≤ 3 * s.ticklength → step s = exec .mFallShort s.present)

/-- Rules R104 to R107, R167 (2), (3). `SPACE`: the level first, then whether the tick is known, then `d > 50*T`. -/
def Obligations.SpaceHandler : Prop :=
  ∀ (s : State) (l : Bool), NextSample s l → s.variant = .dc → s.state = .space → s.lastchange ≤ s.sampleIndex →
    let d := s.sampleIndex + 1 - s.lastchange
    (l = true → step s = exec .sRise s.present) ∧
    (l = false → s.ticklength = 0 → step s = exec .sGuard s.present) ∧
    (l = false → s.ticklength ≠ 0 → d > 50 * s.ticklength → step s = exec .sSilence s.present) ∧
    (l = false → s.ticklength ≠ 0 → d ≤ 50 * s.ticklength → step s = exec .sHold s.present)

/-- Rules R141 to R146, R152. `ABORT` takes one sample whatever its level: a frame leaves the core exactly when the variant's
validator passes, and the core is back in `QUIET`. -/
def Obligations.AbortHandler : Prop :=
  ∀ (s : State) (l : Bool), NextSample s l → s.state = .abort →
    ∃ t, step s = .next t ∧ SameRecord t (State.resetWith s.variant) ∧ t.out.bit = none ∧ t.out.byte = none ∧
      (s.variant = .dc → s.bytes.length ≥ 1 → t.out.frame = some s.bytes) ∧
      (s.variant = .dc → s.bytes = [] → t.out.frame = none) ∧
      (∀ b, s.variant = .sc → s.bytes.length ≥ 2 → Memory.read s.bytes 0 = some b → b.toNat / 16 = 0xF →
        t.out.frame = some s.bytes) ∧
      (∀ b, s.variant = .sc → Memory.read s.bytes 0 = some b → b.toNat / 16 ≠ 0xF → t.out.frame = none) ∧
      (s.variant = .sc → s.bytes.length < 2 → t.out.frame = none)

/-- Rules R120, R121. `FIRSTMARK` looks at the level alone. -/
def Obligations.FirstmarkHandler : Prop :=
  ∀ (s : State) (l : Bool), NextSample s l → s.variant = .sc → s.state = .firstmark →
    (l = true → step s = exec .fHold s.present) ∧ (l = false → step s = exec .fFall s.present)

/-- Rules R122, R123. `INMESSAGE` waits for half a tick, exactly. -/
def Obligations.InmessageHandler : Prop :=
  ∀ (s : State) (l : Bool), NextSample s l → s.variant = .sc → s.state = .inmessage →
    s.lastchange ≤ s.sampleIndex → s.ticklength ≠ 0 →
    let d := s.sampleIndex + 1 - s.lastchange
    (2 * d < s.ticklength → step s = exec .iWait s.present) ∧
    (2 * d ≥ s.ticklength → step s = exec (.iSample l) s.present)

/-- Rules R124 to R126, R167 (4). `NEEDCHANGE`: the timeout first, then the transition. -/
def Obligations.NeedchangeHandler : Prop :=
  ∀ (s : State) (l : Bool), NextSample s l → s.variant = .sc → s.state = .needchange →
    s.lastchange ≤ s.sampleIndex → s.ticklength ≠ 0 →
    let d := s.sampleIndex + 1 - s.lastchange
    (d > 2 * s.ticklength → step s = exec .nTimeout s.present) ∧
    (d ≤ 2 * s.ticklength → l ≠ s.lastlevel → step s = exec (.nEdge l) s.present) ∧
    (d ≤ 2 * s.ticklength → l = s.lastlevel → step s = exec .nWait s.present)

/-- Rules R127, R128. `TICKWAIT` waits for one and a half ticks, exactly. -/
def Obligations.TickwaitHandler : Prop :=
  ∀ (s : State) (l : Bool), NextSample s l → s.variant = .sc → s.state = .tickwait →
    s.lastchange ≤ s.sampleIndex → s.ticklength ≠ 0 →
    let d := s.sampleIndex + 1 - s.lastchange
    (2 * d < 3 * s.ticklength → step s = exec .tWait s.present) ∧
    (2 * d ≥ 3 * s.ticklength → step s = exec (.tSample l) s.present)

/-! ## Reset and invariants -/

/-- Rule R34. The reset value of every field, for a hard reset with `cfg_variant` at `v`; the invariants of rule R35 hold
there. (The pins and the stream are the model's own fields: assumption 3.) -/
def Obligations.ResetStateMeetsInvariants : Prop :=
  ∀ v : Variant,
    let s := State.resetWith v
    s.variant = v ∧ s.state = .quiet ∧ s.sampleIndex = 0 ∧ s.lastchange = 0 ∧ s.ticklength = 0 ∧
    s.lastlevel = false ∧ s.bitacc = 0 ∧ s.bitcount = 0 ∧ s.bytes = [] ∧ Invariants s ∧ TimersInBounds s

/-- Rule R35. Every step keeps the invariants, from every state that has them. -/
def Obligations.InvariantsKeptByEveryStep : Prop :=
  ∀ s t : State, Invariants s → step s = .next t → Invariants t

/-- Rules R105, R122, R124, R127. No timer ever runs past its bound: a wait ends and a timeout fires on the first sample past
it. -/
def Obligations.TimersKeptInBounds : Prop :=
  ∀ s t : State, Invariants s → TimersInBounds s → step s = .next t → TimersInBounds t

/-- Rule R98. From a state with the invariants the step never stops: it neither faults nor refuses, and so is no word of the
reserved space ever selected. -/
def Obligations.NoStepStops : Prop :=
  ∀ s : State, Invariants s → ∃ t, step s = .next t

/-- Rule R98. Whatever the environment presents, for however long, the core started by a hard reset goes on. -/
def Obligations.EveryRunFromResetGoesOn : Prop :=
  ∀ (v : Variant) (ps : List Pins) (n : Nat), ∃ t, run n { State.resetWith v with stream := ps } = .next t ∧ Invariants t

/-- Rules R5, R192, R193, entries U1, U2. A run from a hard reset that is short enough stays within what a finite
implementation can follow, so that the unbounded model speaks for it too (assumption 4). -/
def Obligations.ShortRunsStayWithinLimits : Prop :=
  ∀ (l : Limits) (v : Variant) (ps : List Pins) (n : Nat) (t : State),
    n < 2 ^ l.idxWidth → n < 8 * (l.frameCap + 1) →
    run n { State.resetWith v with stream := ps } = .next t → WithinLimits l t

/-- Rules R108, R129. Every active step goes along an arrow of the variant's state graph, by the arrow's operation. -/
def Obligations.StepsFollowTheStateGraph : Prop :=
  ∀ (s t : State) (i : Instr), (s.present.pins.rst = true ∨ s.present.pins.sampleValid = true) →
    decode s.present.selectorWord = .ok i → step s = .next t → arrow s.variant s.state i t.state = true

/-- Rules R109, R130, R25 (invariant I8). The tick is written once per Message: a known tick is kept or cleared by a reset, and
an unknown one becomes known only on the first falling edge, where it is the number of samples of the pulse. -/
def Obligations.CalibrationOncePerMessage : Prop :=
  ∀ s t : State, Invariants s → step s = .next t →
    (s.ticklength ≠ 0 → t.ticklength = s.ticklength ∨ (t.ticklength = 0 ∧ t.state = .quiet)) ∧
    (s.ticklength = 0 → t.ticklength ≠ 0 →
      s.present.pins.level = false ∧ t.ticklength = s.sampleIndex + 1 ∧
      (s.variant = .dc ∧ s.state = .mark ∧ t.state = .space ∨
        s.variant = .sc ∧ s.state = .firstmark ∧ t.state = .inmessage))

/-- Rule R21. The variant is written by the hard reset only, from the pin `cfg_variant`. -/
def Obligations.VariantOnlyFromHardReset : Prop :=
  ∀ s t : State, step s = .next t →
    (s.present.pins.rst = false → t.variant = s.variant) ∧
    (s.present.pins.rst = true → t.variant = s.present.pins.cfgVariant)

/-- Entry U5, rules R21, R95, R195. `cfg_variant` is read only under `rst`, and `level` only with a sample: a clock cycle that
differs in nothing else gives the same next state, but for the pins it shows. -/
def Obligations.UnqualifiedPinsAreNotRead : Prop :=
  ∀ (s t : State) (p q : Pins) (rest : List Pins), s.stream = p :: rest → p.rst = false → q.rst = false →
    q.sampleValid = p.sampleValid → (p.sampleValid = true → q.level = p.level) → step s = .next t →
    step { s with stream := q :: rest } = .next { t with pins := q }

/-- Rules R51, R54, R58 (c). The Byte Sequence only grows at its end, by the byte the step reports, until a reset clears it. -/
def Obligations.ByteSequenceIsAppendOnly : Prop :=
  ∀ s t : State, step s = .next t →
    t.bytes = s.bytes ++ t.out.byte.toList ∨ (t.bytes = [] ∧ t.state = .quiet ∧ t.out.byte = none)

/-- Rule R52. Outside `ABORT` the Byte Sequence is not read: with any other content the same step happens, with the same
outputs, and the same byte is appended. -/
def Obligations.ByteSequenceReadOnlyInAbort : Prop :=
  ∀ (s t : State) (m : Memory), s.state ≠ .abort → s.present.pins.rst = false → step s = .next t →
    step { s with bytes := m } = .next { t with bytes := m ++ t.out.byte.toList }

/-- Rule R23. In `QUIET` the value of `sample_index` is never read: with any other value the same step happens, but for
`sample_index` itself. -/
def Obligations.QuietIgnoresTheSampleIndex : Prop :=
  ∀ (s t : State) (n : Nat), s.state = .quiet → step s = .next t →
    ∃ u, step { s with sampleIndex := n } = .next u ∧ { u with sampleIndex := 0 } = { t with sampleIndex := 0 } ∧
      (t.state ≠ .quiet → u = t)

/-- Rules R97, R58 (b). One step never gives both a bit and a frame, a byte only together with a bit, at most one byte more in
the Byte Sequence, and at most one sample more in the index. -/
def Obligations.OutputsOfOneStep : Prop :=
  ∀ s t : State, step s = .next t →
    (t.out.frame ≠ none → t.out.bit = none) ∧ (t.out.byte ≠ none → t.out.bit ≠ none) ∧
    t.bytes.length ≤ s.bytes.length + 1 ∧ t.sampleIndex ≤ s.sampleIndex + 1

/-- Rules R141, R142. A frame that leaves the core is the whole Byte Sequence in `ABORT`, and has passed its variant's
validator. -/
def Obligations.EmittedFramesAreValid : Prop :=
  ∀ (s t : State) (f : Memory), step s = .next t → t.out.frame = some f →
    f = s.bytes ∧ s.state = .abort ∧ t.state = .quiet ∧
    (s.variant = .dc → 1 ≤ f.length) ∧
    (s.variant = .sc → 2 ≤ f.length ∧ ∃ b, Memory.read f 0 = some b ∧ b.toNat / 16 = 0xF)

/-- Rules R162, R163, R168, R170. `ABORT` is entered only from `SPACE` by the silence timeout and only from `NEEDCHANGE` by the
two-tick timeout; all other registers keep their values through the entry, and nothing is output. -/
def Obligations.AbortEnteredOnlyByTimeout : Prop :=
  ∀ s t : State, Invariants s → s.state ≠ .abort → step s = .next t → t.state = .abort →
    (s.variant = .dc ∧ s.state = .space ∧ s.present.pins.level = false ∧
        s.sampleIndex + 1 > s.lastchange + 50 * s.ticklength ∨
      s.variant = .sc ∧ s.state = .needchange ∧ s.sampleIndex + 1 > s.lastchange + 2 * s.ticklength) ∧
    SameRecord t { s with state := .abort, sampleIndex := s.sampleIndex + 1 } ∧ t.out = ⟨none, none, none⟩

/-- Rules R53, R55, R27 (invariant I10). The Frame Assembler holds the bits of the current Message, most significant first: what
a step pushes is added to them, and in `QUIET` there are none. -/
def Obligations.BitsPackedMostSignificantFirst : Prop :=
  ∀ (s t : State) (bs : List Bool), Invariants s → Holds bs s → step s = .next t →
    Holds (if t.state = .quiet then [] else bs ++ t.out.bit.toList) t

/-- Rule R182. After an `A_*` operation the state record is the reset one, and that of a hard reset of any instance with the same
`cfg_variant`; and two states with one record give the same outputs on every stream: no memory of the prior Message. -/
def Obligations.ResetIsComplete : Prop :=
  (∀ i ∈ [Instr.aEmitDc, .aDropDc, .aEmitSc, .aDropSc], ∀ s t : State, exec i s = .next t →
    SameRecord t (State.resetWith s.variant) ∧
    ∀ r u : State, r.pins.cfgVariant = s.variant → exec .reset r = .next u →
      SameRecord t u ∧ (t.stream = u.stream → ∀ n, outputs n t = outputs n u)) ∧
  ∀ s t : State, SameRecord s t → s.stream = t.stream → ∀ n, outputs n s = outputs n t

/-! ## Runs -/

/-- Rule R190. A level stuck at 1 is never timed out: `MARK` and `FIRSTMARK` are held for as long as it lasts, and nothing is
output. -/
def Obligations.StuckHighLevelIsHeld : Prop :=
  ∀ (s : State) (n : Nat) (rest : List Pins),
    (s.variant = .dc ∧ s.state = .mark ∨ s.variant = .sc ∧ s.state = .firstmark) →
    s.stream = samples (List.replicate n true) ++ rest →
    (∃ t, run n s = .next t ∧ SameRecord t { s with sampleIndex := s.sampleIndex + n } ∧ t.stream = rest) ∧
    outputs n s = List.replicate n ⟨none, none, none⟩

/-- Rules R104, R105, R107, R143, R144, R194. The silence of the duration-coded variant, from the falling-edge sample of a pulse on: the
Message goes on through `50*T` further low samples, the next one is the timeout, and the frame, if the Byte Sequence is not
empty, leaves on the one after it. -/
def Obligations.SilenceEndsTheMessageExactly : Prop :=
  ∀ (s : State) (g : Nat) (rest : List Pins), s.variant = .dc → s.state = .space → s.ticklength ≠ 0 →
    s.lastchange = s.sampleIndex → s.stream = samples (List.replicate g false) ++ rest →
    (g ≤ 50 * s.ticklength →
      framesOf (outputs g s) = [] ∧
      ∃ t, run g s = .next t ∧ SameRecord t { s with sampleIndex := s.sampleIndex + g }) ∧
    (g = 50 * s.ticklength + 1 →
      framesOf (outputs g s) = [] ∧
      ∃ t, run g s = .next t ∧ SameRecord t { s with sampleIndex := s.sampleIndex + g, state := .abort }) ∧
    (g = 50 * s.ticklength + 2 →
      framesOf (outputs g s) = (if s.bytes = [] then [] else [s.bytes]) ∧
      ∃ t, run g s = .next t ∧ SameRecord t (State.resetWith .dc))

/-- Rules R124, R127, R128, R142, R145, R146, R194. The two-tick timeout of the self-clocking variant, from a decoded transition
on: while the level does not change, the Message goes on through `2*T` further samples, the next one is the timeout, and the one
after it is the `ABORT` sample, on which the Byte Sequence leaves as a frame exactly when it has two bytes and the preamble
nibble. No bit is decoded on the way, and no frame leaves before. -/
def Obligations.MissingTransitionEndsTheMessageExactly : Prop :=
  ∀ (s : State) (l : Bool) (g : Nat) (rest : List Pins), s.variant = .sc → s.state = .tickwait → s.ticklength ≠ 0 →
    s.lastchange = s.sampleIndex → s.stream = samples (List.replicate g l) ++ rest →
    g ≤ 2 * s.ticklength + 2 →
    let valid := 2 ≤ s.bytes.length ∧ ∃ b, Memory.read s.bytes 0 = some b ∧ b.toNat / 16 = 0xF
    bitsOf (outputs g s) = [] ∧
    (g ≤ 2 * s.ticklength → framesOf (outputs g s) = [] ∧
      ∃ t, run g s = .next t ∧ t.state ∈ [DecoderState.tickwait, .needchange] ∧ t.bytes = s.bytes) ∧
    (g = 2 * s.ticklength + 1 → framesOf (outputs g s) = [] ∧
      ∃ t, run g s = .next t ∧ t.state = .abort ∧ t.bytes = s.bytes) ∧
    (g = 2 * s.ticklength + 2 →
      (valid → framesOf (outputs g s) = [s.bytes]) ∧ (¬ valid → framesOf (outputs g s) = []) ∧
      ∃ t, run g s = .next t ∧ SameRecord t (State.resetWith .sc))

/-- Rule R96 (h). The bit decided for a pulse depends only on the ratio of the pulse to the tick: of two instances at the falling
edge of a pulse, one with the pulse and the tick of the other `k` times as long, both run the same operation and push the same
bit, which is 1 exactly when the pulse is longer than one and a half ticks. -/
def Obligations.PulseDecisionIsScaleFree : Prop :=
  ∀ (s t : State) (k : Nat), 0 < k → NextSample s false → NextSample t false →
    s.variant = .dc → t.variant = .dc → s.state = .mark → t.state = .mark →
    s.lastchange ≤ s.sampleIndex → t.lastchange ≤ t.sampleIndex → s.ticklength ≠ 0 →
    let d := s.sampleIndex + 1 - s.lastchange
    t.ticklength = k * s.ticklength → t.sampleIndex + 1 - t.lastchange = k * d →
    ∃ i u v, decode s.present.selectorWord = .ok i ∧ decode t.present.selectorWord = .ok i ∧
      i = (if 2 * d > 3 * s.ticklength then .mFallLong else .mFallShort) ∧
      step s = .next u ∧ step t = .next v ∧
      u.out.bit = some (decide (2 * d > 3 * s.ticklength)) ∧ v.out.bit = u.out.bit

/-- Rules R110, R143, R144, R194. A whole duration-coded Message, of any tick, any pulses and any gaps of at most `50*T + 1`
samples: its bits are 0 and then one bit per later pulse, 1 exactly when the pulse is longer than one and a half ticks; on the
`(50*T + 3)`-th low sample, and not before, the completed bytes leave as one frame if there are any; and the core is as
fresh. -/
def Obligations.DurationCodedMessageDecodes : Prop :=
  ∀ (t : Nat) (pulses : List (Nat × Nat)) (s : State) (rest : List Pins),
    1 ≤ t → (∀ p ∈ pulses, 1 ≤ p.1 ∧ p.1 ≤ 50 * t + 1 ∧ 1 ≤ p.2) →
    Invariants s → s.variant = .dc → s.state = .quiet →
    s.stream = samples (dcLevels t pulses ++ List.replicate (50 * t + 3) false) ++ rest →
    let n := (dcLevels t pulses).length + (50 * t + 3)
    bitsOf (outputs n s) = dcBits t pulses ∧
    framesOf (outputs (n - 1) s) = [] ∧
    framesOf (outputs n s) = (if 8 ≤ (dcBits t pulses).length then [packBytes (dcBits t pulses)] else []) ∧
    ∃ u, run n s = .next u ∧ SameRecord u (State.resetWith .dc) ∧ u.stream = rest

/-- Rules R79, R131, R145, R146, R194. A whole self-clocking Message `MANCH(T; 1 b_2 b_3 ...)` with `T` at least 2, followed by
low samples: it decodes to its bit list with a leading 1; on the `(2*T + 2)`-th sample after the last decoded transition the
completed bytes leave as one frame if they pass the validator; and the core is as fresh. -/
def Obligations.SelfClockingMessageDecodes : Prop :=
  ∀ (t : Nat) (bits : List Bool) (s : State) (rest : List Pins),
    2 ≤ t → Invariants s → s.variant = .sc → s.state = .quiet →
    s.stream = samples (scLevels t (true :: bits) ++ List.replicate (t + 3) false) ++ rest →
    let n := (scLevels t (true :: bits)).length + (t + 3)
    bitsOf (outputs n s) = true :: true :: bits ∧
    framesOf (outputs (n - 1) s) = [] ∧
    framesOf (outputs n s) =
      (if frameOkSc (packBytes (true :: true :: bits)) = true then [packBytes (true :: true :: bits)] else []) ∧
    ∃ u, run n s = .next u ∧ SameRecord u (State.resetWith .sc) ∧ u.stream = rest

/-- Rules R96 (h), R110. Multiplying every pulse length of a duration-coded Message by one factor leaves the pushed bits
unchanged, whatever the gaps within the silence bound. One low sample after the last pulse ends it. -/
def Obligations.ScaledMessagesPushTheSameBits : Prop :=
  ∀ (k t : Nat) (pulses scaled : List (Nat × Nat)) (s u : State) (rest rest' : List Pins), 0 < k → 1 ≤ t →
    (∀ p ∈ pulses, 1 ≤ p.1 ∧ p.1 ≤ 50 * t + 1 ∧ 1 ≤ p.2) →
    (∀ p ∈ scaled, 1 ≤ p.1 ∧ p.1 ≤ 50 * (k * t) + 1) →
    scaled.map Prod.snd = pulses.map (fun p => k * p.2) →
    Invariants s → s.variant = .dc → s.state = .quiet → s.stream = samples (dcLevels t pulses ++ [false]) ++ rest →
    Invariants u → u.variant = .dc → u.state = .quiet → u.stream = samples (dcLevels (k * t) scaled ++ [false]) ++ rest' →
    bitsOf (outputs ((dcLevels t pulses).length + 1) s) = dcBits t pulses ∧
    bitsOf (outputs ((dcLevels (k * t) scaled).length + 1) u) = dcBits t pulses
end

