-- ==== Sys2Proof/Laws/Decode.lean ====
section
/-! SUPPORT. The operation table read by fields: what `decode` answers on a selector word given by its fields. -/

namespace Sys2Proof

/-- The operation a selector's fields select, state by state (rule R74 read by rows). -/
def Selector.select (q : Selector) : Except Reserved Instr :=
  if q.r then .ok .reset
  else match q.v, q.st with
    | .dc, .quiet => .ok (if q.l then .qRiseDc else .qIdle)
    | .sc, .quiet => .ok (if q.l then .qRiseSc else .qIdle)
    | .dc, .mark =>
      .ok (if q.l then .mHold else if q.k then (if q.g then .mFallLong else .mFallShort) else .mFallCal)
    | .dc, .space =>
      .ok (if q.l then .sRise else if q.k then (if q.z then .sSilence else .sHold) else .sGuard)
    | .dc, .abort => .ok (if q.f then .aEmitDc else .aDropDc)
    | .sc, .abort => .ok (if q.f then .aEmitSc else .aDropSc)
    | .sc, .firstmark => .ok (if q.l then .fHold else .fFall)
    | .sc, .inmessage =>
      if q.k then .ok (if q.h then .iSample q.l else .iWait) else .error .uncalibratedSc
    | .sc, .needchange =>
      if q.k then .ok (if q.o then .nTimeout else if q.x then .nEdge q.l else .nWait)
      else .error .uncalibratedSc
    | .sc, .tickwait =>
      if q.k then .ok (if q.w then .tSample q.l else .tWait) else .error .uncalibratedSc
    | .sc, .mark => .error .dcStateInSc
    | .sc, .space => .error .dcStateInSc
    | .dc, .firstmark => .error .scStateInDc
    | .dc, .inmessage => .error .scStateInDc
    | .dc, .needchange => .error .scStateInDc
    | .dc, .tickwait => .error .scStateInDc

/-! The bits of a selector word, one lemma each (rule R70). -/

theorem Selector.word_bit13 (q : Selector) : q.word.getLsbD 13 = q.r := by
  simp only [Selector.word, BitVec.getLsbD_append]; simp

theorem Selector.word_bit12 (q : Selector) : q.word.getLsbD 12 = q.v.code := by
  simp only [Selector.word, BitVec.getLsbD_append]; simp

theorem Selector.word_bit11 (q : Selector) : q.word.getLsbD 11 = q.st.code.getLsbD 2 := by
  simp only [Selector.word, BitVec.getLsbD_append]; simp

theorem Selector.word_bit10 (q : Selector) : q.word.getLsbD 10 = q.st.code.getLsbD 1 := by
  simp only [Selector.word, BitVec.getLsbD_append]; simp

theorem Selector.word_bit9 (q : Selector) : q.word.getLsbD 9 = q.st.code.getLsbD 0 := by
  simp only [Selector.word, BitVec.getLsbD_append]; simp

theorem Selector.word_bit8 (q : Selector) : q.word.getLsbD 8 = q.l := by
  simp only [Selector.word, BitVec.getLsbD_append]; simp

theorem Selector.word_bit7 (q : Selector) : q.word.getLsbD 7 = q.k := by
  simp only [Selector.word, BitVec.getLsbD_append]; simp

theorem Selector.word_bit6 (q : Selector) : q.word.getLsbD 6 = q.x := by
  simp only [Selector.word, BitVec.getLsbD_append]; simp

theorem Selector.word_bit5 (q : Selector) : q.word.getLsbD 5 = q.h := by
  simp only [Selector.word, BitVec.getLsbD_append]; simp

theorem Selector.word_bit4 (q : Selector) : q.word.getLsbD 4 = q.w := by
  simp only [Selector.word, BitVec.getLsbD_append]; simp

theorem Selector.word_bit3 (q : Selector) : q.word.getLsbD 3 = q.g := by
  simp only [Selector.word, BitVec.getLsbD_append]; simp

theorem Selector.word_bit2 (q : Selector) : q.word.getLsbD 2 = q.o := by
  simp only [Selector.word, BitVec.getLsbD_append]; simp

theorem Selector.word_bit1 (q : Selector) : q.word.getLsbD 1 = q.z := by
  simp only [Selector.word, BitVec.getLsbD_append]; simp

theorem Selector.word_bit0 (q : Selector) : q.word.getLsbD 0 = q.f := by
  simp only [Selector.word, BitVec.getLsbD_append]; simp

theorem Variant.ofCode_code (v : Variant) : Variant.ofCode v.code = v := by
  cases v <;> rfl

theorem DecoderState.ofCode_code (st : DecoderState) : DecoderState.ofCode st.code = st := by
  cases st <;> rfl

theorem Selector.word_state (q : Selector) : q.word.extractLsb' 9 3 = q.st.code := by
  have h9 := q.word_bit9
  have h10 := q.word_bit10
  have h11 := q.word_bit11
  ext i hi
  rcases i with _ | _ | _ | i
  · simpa using h9
  · simpa using h10
  · simpa using h11
  · omega

/-- Reading the fields of a word that was assembled from fields gives them back. -/
theorem Selector.ofWord_word (q : Selector) : Selector.ofWord q.word = q := by
  simp only [Selector.ofWord, q.word_bit13, q.word_bit12, q.word_bit8, q.word_bit7, q.word_bit6, q.word_bit5,
    q.word_bit4, q.word_bit3, q.word_bit2, q.word_bit1, q.word_bit0, q.word_state, Variant.ofCode_code,
    DecoderState.ofCode_code]

theorem levelBit_word (q : Selector) : levelBit q.word = q.l :=
  q.word_bit8

theorem and_beq_iff (w m p : SelWord) :
    (w &&& m == p) = ((List.range 14).all fun i => (w.getLsbD i && m.getLsbD i) == p.getLsbD i) := by
  rw [Bool.eq_iff_iff]
  simp only [beq_iff_eq, List.all_eq_true, List.mem_range]
  constructor
  · rintro rfl i _
    simp
  · intro h
    ext i hi
    simpa [BitVec.getLsbD_eq_getElem hi] using h i hi

/-- Matching a row, bit by bit. -/
theorem Row.matches_word (row : Row) (q : Selector) : row.matches q.word =
    ((q.f && row.mask.getLsbD 0) == row.pattern.getLsbD 0 &&
      (q.z && row.mask.getLsbD 1) == row.pattern.getLsbD 1 &&
      (q.o && row.mask.getLsbD 2) == row.pattern.getLsbD 2 &&
      (q.g && row.mask.getLsbD 3) == row.pattern.getLsbD 3 &&
      (q.w && row.mask.getLsbD 4) == row.pattern.getLsbD 4 &&
      (q.h && row.mask.getLsbD 5) == row.pattern.getLsbD 5 &&
      (q.x && row.mask.getLsbD 6) == row.pattern.getLsbD 6 &&
      (q.k && row.mask.getLsbD 7) == row.pattern.getLsbD 7 &&
      (q.l && row.mask.getLsbD 8) == row.pattern.getLsbD 8 &&
      (q.st.code.getLsbD 0 && row.mask.getLsbD 9) == row.pattern.getLsbD 9 &&
      (q.st.code.getLsbD 1 && row.mask.getLsbD 10) == row.pattern.getLsbD 10 &&
      (q.st.code.getLsbD 2 && row.mask.getLsbD 11) == row.pattern.getLsbD 11 &&
      (q.v.code && row.mask.getLsbD 12) == row.pattern.getLsbD 12 &&
      (q.r && row.mask.getLsbD 13) == row.pattern.getLsbD 13) := by
  simp only [Row.matches, and_beq_iff, List.range_succ, List.range_zero, List.nil_append, List.cons_append, List.all_cons,
    List.all_nil, Bool.and_true, Bool.and_assoc, q.word_bit0, q.word_bit1, q.word_bit2, q.word_bit3, q.word_bit4, q.word_bit5, q.word_bit6, q.word_bit7, q.word_bit8, q.word_bit9, q.word_bit10, q.word_bit11, q.word_bit12, q.word_bit13]

/-- The class a word given by its fields falls in, if it matches no row. -/
theorem reservedClass_word (q : Selector) : reservedClass q.word =
    match q.v, q.st with
    | .dc, _ => .scStateInDc
    | .sc, .mark => .dcStateInSc
    | .sc, .space => .dcStateInSc
    | .sc, _ => .uncalibratedSc := by
  have h := q.ofWord_word
  obtain ⟨_, v, st, _⟩ := q
  cases v <;> cases st <;> simp only [reservedClass, h]

/-- The decoder's answer on a word given by its fields. -/
theorem decode_word (q : Selector) : decode q.word = q.select := by
  obtain ⟨r, v, st, l, k, x, h, w, g, o, z, f⟩ := q
  cases r with
  | true => simp [decode, table, Row.matches_word, Selector.select]
  | false =>
    cases v <;> cases st <;>
      simp [decode, table, List.find?_cons, Row.matches_word, levelBit_word, reservedClass_word, DecoderState.code,
        Variant.code, Selector.select] <;>
      first
        | (cases l <;> simp; done)
        | (cases f <;> simp; done)
        | (cases l <;> cases k <;> simp; done)
        | (cases l <;> cases k <;> cases g <;> simp; done)
        | (cases l <;> cases k <;> cases z <;> simp; done)
        | (cases k <;> cases h <;> simp; done)
        | (cases k <;> cases w <;> simp; done)
        | (cases k <;> cases o <;> cases x <;> simp)

end Sys2Proof
end

