-- ==== Sys2Proof/Laws/Flags.lean ====
section
/-! SUPPORT. The flags as the inequalities of rule R31, and the elapsed count where rule R30 defines it. -/

namespace Sys2Proof.Machine

theorem exceeds_iff (d t : Nat) (q : Ratio) : exceeds d t q = true ↔ q.num * t < q.den * d := by
  simp [exceeds]

theorem reaches_iff (d t : Nat) (q : Ratio) : reaches d t q = true ↔ q.num * t ≤ q.den * d := by
  simp [reaches]

/-- Rule R30, where `lastchange` is not above `idx`. -/
theorem State.elapsed_eq (s : State) (h : s.lastchange ≤ s.sampleIndex + 1) :
    s.elapsed = s.sampleIndex + 1 - s.lastchange := by
  simp [State.elapsed, State.idx, h]

/-- Under invariant I1 the elapsed count is at least 1. -/
theorem State.elapsed_pos (s : State) (h : s.lastchange ≤ s.sampleIndex) : 1 ≤ s.elapsed := by
  rw [s.elapsed_eq (by omega)]; omega

theorem State.flagK_iff (s : State) : s.flagK = true ↔ s.ticklength ≠ 0 := by
  simp [State.flagK]

theorem State.flagK_eq (s : State) : s.flagK = decide (s.ticklength ≠ 0) := by
  rw [Bool.eq_iff_iff, s.flagK_iff, decide_eq_true_iff]

theorem State.flagX_iff (s : State) : s.flagX = true ↔ s.pins.level ≠ s.lastlevel := by
  simp [State.flagX]

theorem State.flagX_eq (s : State) : s.flagX = decide (s.pins.level ≠ s.lastlevel) := by
  rw [Bool.eq_iff_iff, s.flagX_iff, decide_eq_true_iff]

theorem State.flagH_iff (s : State) : s.flagH = true ↔ s.ticklength ≤ 2 * s.elapsed := by
  simp [State.flagH, reaches_iff, scHalf]

theorem State.flagH_eq (s : State) : s.flagH = decide (s.ticklength ≤ 2 * s.elapsed) := by
  rw [Bool.eq_iff_iff, s.flagH_iff, decide_eq_true_iff]

theorem State.flagW_iff (s : State) : s.flagW = true ↔ 3 * s.ticklength ≤ 2 * s.elapsed := by
  simp [State.flagW, reaches_iff, scSkip]

theorem State.flagW_eq (s : State) : s.flagW = decide (3 * s.ticklength ≤ 2 * s.elapsed) := by
  rw [Bool.eq_iff_iff, s.flagW_iff, decide_eq_true_iff]

theorem State.flagG_iff (s : State) : s.flagG = true ↔ 3 * s.ticklength < 2 * s.elapsed := by
  simp [State.flagG, exceeds_iff, longTickThreshold]

theorem State.flagG_eq (s : State) : s.flagG = decide (3 * s.ticklength < 2 * s.elapsed) := by
  rw [Bool.eq_iff_iff, s.flagG_iff, decide_eq_true_iff]

theorem State.flagO_iff (s : State) : s.flagO = true ↔ 2 * s.ticklength < s.elapsed := by
  simp [State.flagO, exceeds_iff, scTimeout]

theorem State.flagO_eq (s : State) : s.flagO = decide (2 * s.ticklength < s.elapsed) := by
  rw [Bool.eq_iff_iff, s.flagO_iff, decide_eq_true_iff]

theorem State.flagZ_iff (s : State) : s.flagZ = true ↔ 50 * s.ticklength < s.elapsed := by
  simp [State.flagZ, exceeds_iff, silenceTickLength]

theorem State.flagZ_eq (s : State) : s.flagZ = decide (50 * s.ticklength < s.elapsed) := by
  rw [Bool.eq_iff_iff, s.flagZ_iff, decide_eq_true_iff]

/-! The validators in the numbers of rules R141 and R142. -/

theorem frameOkDc_iff (m : Memory) : frameOkDc m = true ↔ 1 ≤ m.length := by
  simp [frameOkDc, dcMinBytes]

theorem upperNibble_toNat (b : Byte) : (upperNibble b).toNat = b.toNat / 16 := by
  simp [upperNibble, BitVec.extractLsb'_toNat, Nat.shiftRight_eq_div_pow]
  omega

theorem frameOkSc_cons (b : Byte) (bs : Memory) :
    frameOkSc (b :: bs) = true ↔ 1 ≤ bs.length ∧ b.toNat / 16 = 0xF := by
  rw [← upperNibble_toNat]
  simp [frameOkSc, scMinBytes, scPreamble, BitVec.toNat_eq]

theorem frameOkSc_nil : frameOkSc [] = false := rfl

end Sys2Proof.Machine
end

