-- ==== Sys2Proof/Laws/Memory.lean ====
section
/-! SUPPORT. The laws of the Byte Sequence: every sequence is in canonical form, an append writes one place and leaves
every other one alone, and the cells say all there is. -/

namespace Sys2Proof.Machine

theorem Memory.denseFrom_cellsFrom (m : Memory) (n : Nat) :
    Memory.denseFrom n (Memory.cellsFrom n m) = true := by
  induction m generalizing n with
  | nil => rfl
  | cons b bs ih => simp [Memory.cellsFrom, Memory.denseFrom, ih]

/-- Every Byte Sequence has the canonical form; so every memory operation keeps it, and a reset has it. -/
theorem Memory.wf_all (m : Memory) : Memory.wf m = true :=
  Memory.denseFrom_cellsFrom m 0

theorem Memory.append_wf (m : Memory) (v : Byte) : Memory.wf (Memory.append m v) = true :=
  Memory.wf_all _

theorem Memory.reset_wf (v : Variant) : Memory.wf (State.resetWith v).bytes = true :=
  Memory.wf_all _

theorem Memory.cellsFrom_injective (m m' : Memory) (n : Nat)
    (h : Memory.cellsFrom n m = Memory.cellsFrom n m') : m = m' := by
  induction m generalizing m' n with
  | nil => cases m' with
    | nil => rfl
    | cons b bs => simp [Memory.cellsFrom] at h
  | cons b bs ih => cases m' with
    | nil => simp [Memory.cellsFrom] at h
    | cons c cs =>
      simp only [Memory.cellsFrom, List.cons.injEq, Prod.mk.injEq, true_and] at h
      rw [h.1, ih cs (n + 1) h.2]

/-- Equal cells are equal memories. -/
theorem Memory.cells_injective (m m' : Memory) (h : Memory.cells m = Memory.cells m') : m = m' :=
  Memory.cellsFrom_injective m m' 0 h

@[simp] theorem Memory.read_empty (k : Nat) : Memory.read Memory.empty k = none := rfl

/-- Reading where an append wrote gives the byte written. -/
theorem Memory.read_append_at (m : Memory) (v : Byte) :
    Memory.read (Memory.append m v) (Memory.nextIndex m) = some v := by
  simp [Memory.read, Memory.append, Memory.nextIndex]

/-- An append leaves every other index alone. -/
theorem Memory.read_append_of_ne (m : Memory) (v : Byte) (k : Nat) (h : k ≠ Memory.nextIndex m) :
    Memory.read (Memory.append m v) k = Memory.read m k := by
  simp only [Memory.read, Memory.append, Memory.nextIndex] at *
  rcases Nat.lt_or_ge k m.length with hk | hk
  · exact List.getElem?_append_left hk
  · rw [List.getElem?_eq_none (by simp; omega), List.getElem?_eq_none hk]

end Sys2Proof.Machine
end

