-- ==== Sys2Proof/Laws/State.lean ====
section
/-! SUPPORT. One lemma per field of State per named update, so that no proof unfolds a record update. -/

namespace Sys2Proof.Machine

@[simp] theorem State.goto_variant (s : State) (x : DecoderState) : (s.goto x).variant = s.variant := rfl
@[simp] theorem State.goto_state (s : State) (x : DecoderState) : (s.goto x).state = x := rfl
@[simp] theorem State.goto_sampleIndex (s : State) (x : DecoderState) : (s.goto x).sampleIndex = s.sampleIndex := rfl
@[simp] theorem State.goto_lastchange (s : State) (x : DecoderState) : (s.goto x).lastchange = s.lastchange := rfl
@[simp] theorem State.goto_ticklength (s : State) (x : DecoderState) : (s.goto x).ticklength = s.ticklength := rfl
@[simp] theorem State.goto_lastlevel (s : State) (x : DecoderState) : (s.goto x).lastlevel = s.lastlevel := rfl
@[simp] theorem State.goto_bitacc (s : State) (x : DecoderState) : (s.goto x).bitacc = s.bitacc := rfl
@[simp] theorem State.goto_bitcount (s : State) (x : DecoderState) : (s.goto x).bitcount = s.bitcount := rfl
@[simp] theorem State.goto_bytes (s : State) (x : DecoderState) : (s.goto x).bytes = s.bytes := rfl
@[simp] theorem State.goto_out (s : State) (x : DecoderState) : (s.goto x).out = s.out := rfl
@[simp] theorem State.goto_pins (s : State) (x : DecoderState) : (s.goto x).pins = s.pins := rfl
@[simp] theorem State.goto_stream (s : State) (x : DecoderState) : (s.goto x).stream = s.stream := rfl

@[simp] theorem State.setSampleIndex_variant (s : State) (n : Nat) : (s.setSampleIndex n).variant = s.variant := rfl
@[simp] theorem State.setSampleIndex_state (s : State) (n : Nat) : (s.setSampleIndex n).state = s.state := rfl
@[simp] theorem State.setSampleIndex_sampleIndex (s : State) (n : Nat) : (s.setSampleIndex n).sampleIndex = n := rfl
@[simp] theorem State.setSampleIndex_lastchange (s : State) (n : Nat) : (s.setSampleIndex n).lastchange = s.lastchange := rfl
@[simp] theorem State.setSampleIndex_ticklength (s : State) (n : Nat) : (s.setSampleIndex n).ticklength = s.ticklength := rfl
@[simp] theorem State.setSampleIndex_lastlevel (s : State) (n : Nat) : (s.setSampleIndex n).lastlevel = s.lastlevel := rfl
@[simp] theorem State.setSampleIndex_bitacc (s : State) (n : Nat) : (s.setSampleIndex n).bitacc = s.bitacc := rfl
@[simp] theorem State.setSampleIndex_bitcount (s : State) (n : Nat) : (s.setSampleIndex n).bitcount = s.bitcount := rfl
@[simp] theorem State.setSampleIndex_bytes (s : State) (n : Nat) : (s.setSampleIndex n).bytes = s.bytes := rfl
@[simp] theorem State.setSampleIndex_out (s : State) (n : Nat) : (s.setSampleIndex n).out = s.out := rfl
@[simp] theorem State.setSampleIndex_pins (s : State) (n : Nat) : (s.setSampleIndex n).pins = s.pins := rfl
@[simp] theorem State.setSampleIndex_stream (s : State) (n : Nat) : (s.setSampleIndex n).stream = s.stream := rfl

@[simp] theorem State.setLastchange_variant (s : State) (n : Nat) : (s.setLastchange n).variant = s.variant := rfl
@[simp] theorem State.setLastchange_state (s : State) (n : Nat) : (s.setLastchange n).state = s.state := rfl
@[simp] theorem State.setLastchange_sampleIndex (s : State) (n : Nat) : (s.setLastchange n).sampleIndex = s.sampleIndex := rfl
@[simp] theorem State.setLastchange_lastchange (s : State) (n : Nat) : (s.setLastchange n).lastchange = n := rfl
@[simp] theorem State.setLastchange_ticklength (s : State) (n : Nat) : (s.setLastchange n).ticklength = s.ticklength := rfl
@[simp] theorem State.setLastchange_lastlevel (s : State) (n : Nat) : (s.setLastchange n).lastlevel = s.lastlevel := rfl
@[simp] theorem State.setLastchange_bitacc (s : State) (n : Nat) : (s.setLastchange n).bitacc = s.bitacc := rfl
@[simp] theorem State.setLastchange_bitcount (s : State) (n : Nat) : (s.setLastchange n).bitcount = s.bitcount := rfl
@[simp] theorem State.setLastchange_bytes (s : State) (n : Nat) : (s.setLastchange n).bytes = s.bytes := rfl
@[simp] theorem State.setLastchange_out (s : State) (n : Nat) : (s.setLastchange n).out = s.out := rfl
@[simp] theorem State.setLastchange_pins (s : State) (n : Nat) : (s.setLastchange n).pins = s.pins := rfl
@[simp] theorem State.setLastchange_stream (s : State) (n : Nat) : (s.setLastchange n).stream = s.stream := rfl

@[simp] theorem State.setTicklength_variant (s : State) (n : Nat) : (s.setTicklength n).variant = s.variant := rfl
@[simp] theorem State.setTicklength_state (s : State) (n : Nat) : (s.setTicklength n).state = s.state := rfl
@[simp] theorem State.setTicklength_sampleIndex (s : State) (n : Nat) : (s.setTicklength n).sampleIndex = s.sampleIndex := rfl
@[simp] theorem State.setTicklength_lastchange (s : State) (n : Nat) : (s.setTicklength n).lastchange = s.lastchange := rfl
@[simp] theorem State.setTicklength_ticklength (s : State) (n : Nat) : (s.setTicklength n).ticklength = n := rfl
@[simp] theorem State.setTicklength_lastlevel (s : State) (n : Nat) : (s.setTicklength n).lastlevel = s.lastlevel := rfl
@[simp] theorem State.setTicklength_bitacc (s : State) (n : Nat) : (s.setTicklength n).bitacc = s.bitacc := rfl
@[simp] theorem State.setTicklength_bitcount (s : State) (n : Nat) : (s.setTicklength n).bitcount = s.bitcount := rfl
@[simp] theorem State.setTicklength_bytes (s : State) (n : Nat) : (s.setTicklength n).bytes = s.bytes := rfl
@[simp] theorem State.setTicklength_out (s : State) (n : Nat) : (s.setTicklength n).out = s.out := rfl
@[simp] theorem State.setTicklength_pins (s : State) (n : Nat) : (s.setTicklength n).pins = s.pins := rfl
@[simp] theorem State.setTicklength_stream (s : State) (n : Nat) : (s.setTicklength n).stream = s.stream := rfl

@[simp] theorem State.setLastlevel_variant (s : State) (l : Bool) : (s.setLastlevel l).variant = s.variant := rfl
@[simp] theorem State.setLastlevel_state (s : State) (l : Bool) : (s.setLastlevel l).state = s.state := rfl
@[simp] theorem State.setLastlevel_sampleIndex (s : State) (l : Bool) : (s.setLastlevel l).sampleIndex = s.sampleIndex := rfl
@[simp] theorem State.setLastlevel_lastchange (s : State) (l : Bool) : (s.setLastlevel l).lastchange = s.lastchange := rfl
@[simp] theorem State.setLastlevel_ticklength (s : State) (l : Bool) : (s.setLastlevel l).ticklength = s.ticklength := rfl
@[simp] theorem State.setLastlevel_lastlevel (s : State) (l : Bool) : (s.setLastlevel l).lastlevel = l := rfl
@[simp] theorem State.setLastlevel_bitacc (s : State) (l : Bool) : (s.setLastlevel l).bitacc = s.bitacc := rfl
@[simp] theorem State.setLastlevel_bitcount (s : State) (l : Bool) : (s.setLastlevel l).bitcount = s.bitcount := rfl
@[simp] theorem State.setLastlevel_bytes (s : State) (l : Bool) : (s.setLastlevel l).bytes = s.bytes := rfl
@[simp] theorem State.setLastlevel_out (s : State) (l : Bool) : (s.setLastlevel l).out = s.out := rfl
@[simp] theorem State.setLastlevel_pins (s : State) (l : Bool) : (s.setLastlevel l).pins = s.pins := rfl
@[simp] theorem State.setLastlevel_stream (s : State) (l : Bool) : (s.setLastlevel l).stream = s.stream := rfl

@[simp] theorem State.beginSample_variant (s : State) : (s.beginSample).variant = s.variant := rfl
@[simp] theorem State.beginSample_state (s : State) : (s.beginSample).state = s.state := rfl
@[simp] theorem State.beginSample_sampleIndex (s : State) : (s.beginSample).sampleIndex = s.sampleIndex + 1 := rfl
@[simp] theorem State.beginSample_lastchange (s : State) : (s.beginSample).lastchange = s.lastchange := rfl
@[simp] theorem State.beginSample_ticklength (s : State) : (s.beginSample).ticklength = s.ticklength := rfl
@[simp] theorem State.beginSample_lastlevel (s : State) : (s.beginSample).lastlevel = s.lastlevel := rfl
@[simp] theorem State.beginSample_bitacc (s : State) : (s.beginSample).bitacc = s.bitacc := rfl
@[simp] theorem State.beginSample_bitcount (s : State) : (s.beginSample).bitcount = s.bitcount := rfl
@[simp] theorem State.beginSample_bytes (s : State) : (s.beginSample).bytes = s.bytes := rfl
@[simp] theorem State.beginSample_out (s : State) : (s.beginSample).out = Out.none := rfl
@[simp] theorem State.beginSample_pins (s : State) : (s.beginSample).pins = s.pins := rfl
@[simp] theorem State.beginSample_stream (s : State) : (s.beginSample).stream = s.stream := rfl

@[simp] theorem State.emitFrame_variant (s : State) : (s.emitFrame).variant = s.variant := rfl
@[simp] theorem State.emitFrame_state (s : State) : (s.emitFrame).state = s.state := rfl
@[simp] theorem State.emitFrame_sampleIndex (s : State) : (s.emitFrame).sampleIndex = s.sampleIndex := rfl
@[simp] theorem State.emitFrame_lastchange (s : State) : (s.emitFrame).lastchange = s.lastchange := rfl
@[simp] theorem State.emitFrame_ticklength (s : State) : (s.emitFrame).ticklength = s.ticklength := rfl
@[simp] theorem State.emitFrame_lastlevel (s : State) : (s.emitFrame).lastlevel = s.lastlevel := rfl
@[simp] theorem State.emitFrame_bitacc (s : State) : (s.emitFrame).bitacc = s.bitacc := rfl
@[simp] theorem State.emitFrame_bitcount (s : State) : (s.emitFrame).bitcount = s.bitcount := rfl
@[simp] theorem State.emitFrame_bytes (s : State) : (s.emitFrame).bytes = s.bytes := rfl
@[simp] theorem State.emitFrame_out (s : State) : (s.emitFrame).out = { s.out with frame := some s.bytes } := rfl
@[simp] theorem State.emitFrame_pins (s : State) : (s.emitFrame).pins = s.pins := rfl
@[simp] theorem State.emitFrame_stream (s : State) : (s.emitFrame).stream = s.stream := rfl

@[simp] theorem State.enterAbort_variant (s : State) : (s.enterAbort).variant = s.variant := rfl
@[simp] theorem State.enterAbort_state (s : State) : (s.enterAbort).state = .abort := rfl
@[simp] theorem State.enterAbort_sampleIndex (s : State) : (s.enterAbort).sampleIndex = s.sampleIndex := rfl
@[simp] theorem State.enterAbort_lastchange (s : State) : (s.enterAbort).lastchange = s.lastchange := rfl
@[simp] theorem State.enterAbort_ticklength (s : State) : (s.enterAbort).ticklength = s.ticklength := rfl
@[simp] theorem State.enterAbort_lastlevel (s : State) : (s.enterAbort).lastlevel = s.lastlevel := rfl
@[simp] theorem State.enterAbort_bitacc (s : State) : (s.enterAbort).bitacc = s.bitacc := rfl
@[simp] theorem State.enterAbort_bitcount (s : State) : (s.enterAbort).bitcount = s.bitcount := rfl
@[simp] theorem State.enterAbort_bytes (s : State) : (s.enterAbort).bytes = s.bytes := rfl
@[simp] theorem State.enterAbort_out (s : State) : (s.enterAbort).out = s.out := rfl
@[simp] theorem State.enterAbort_pins (s : State) : (s.enterAbort).pins = s.pins := rfl
@[simp] theorem State.enterAbort_stream (s : State) : (s.enterAbort).stream = s.stream := rfl

@[simp] theorem State.resetAll_variant (s : State) : (s.resetAll).variant = s.variant := rfl
@[simp] theorem State.resetAll_state (s : State) : (s.resetAll).state = .quiet := rfl
@[simp] theorem State.resetAll_sampleIndex (s : State) : (s.resetAll).sampleIndex = 0 := rfl
@[simp] theorem State.resetAll_lastchange (s : State) : (s.resetAll).lastchange = 0 := rfl
@[simp] theorem State.resetAll_ticklength (s : State) : (s.resetAll).ticklength = 0 := rfl
@[simp] theorem State.resetAll_lastlevel (s : State) : (s.resetAll).lastlevel = false := rfl
@[simp] theorem State.resetAll_bitacc (s : State) : (s.resetAll).bitacc = 0 := rfl
@[simp] theorem State.resetAll_bitcount (s : State) : (s.resetAll).bitcount = 0 := rfl
@[simp] theorem State.resetAll_bytes (s : State) : (s.resetAll).bytes = [] := rfl
@[simp] theorem State.resetAll_out (s : State) : (s.resetAll).out = s.out := rfl
@[simp] theorem State.resetAll_pins (s : State) : (s.resetAll).pins = s.pins := rfl
@[simp] theorem State.resetAll_stream (s : State) : (s.resetAll).stream = s.stream := rfl

@[simp] theorem State.returnFromAbort_variant (s : State) : (s.returnFromAbort).variant = s.variant := rfl
@[simp] theorem State.returnFromAbort_state (s : State) : (s.returnFromAbort).state = .quiet := rfl
@[simp] theorem State.returnFromAbort_sampleIndex (s : State) : (s.returnFromAbort).sampleIndex = 0 := rfl
@[simp] theorem State.returnFromAbort_lastchange (s : State) : (s.returnFromAbort).lastchange = 0 := rfl
@[simp] theorem State.returnFromAbort_ticklength (s : State) : (s.returnFromAbort).ticklength = 0 := rfl
@[simp] theorem State.returnFromAbort_lastlevel (s : State) : (s.returnFromAbort).lastlevel = false := rfl
@[simp] theorem State.returnFromAbort_bitacc (s : State) : (s.returnFromAbort).bitacc = 0 := rfl
@[simp] theorem State.returnFromAbort_bitcount (s : State) : (s.returnFromAbort).bitcount = 0 := rfl
@[simp] theorem State.returnFromAbort_bytes (s : State) : (s.returnFromAbort).bytes = [] := rfl
@[simp] theorem State.returnFromAbort_out (s : State) : (s.returnFromAbort).out = s.out := rfl
@[simp] theorem State.returnFromAbort_pins (s : State) : (s.returnFromAbort).pins = s.pins := rfl
@[simp] theorem State.returnFromAbort_stream (s : State) : (s.returnFromAbort).stream = s.stream := rfl

@[simp] theorem State.hardReset_variant (s : State) : (s.hardReset).variant = s.pins.cfgVariant := rfl
@[simp] theorem State.hardReset_state (s : State) : (s.hardReset).state = .quiet := rfl
@[simp] theorem State.hardReset_sampleIndex (s : State) : (s.hardReset).sampleIndex = 0 := rfl
@[simp] theorem State.hardReset_lastchange (s : State) : (s.hardReset).lastchange = 0 := rfl
@[simp] theorem State.hardReset_ticklength (s : State) : (s.hardReset).ticklength = 0 := rfl
@[simp] theorem State.hardReset_lastlevel (s : State) : (s.hardReset).lastlevel = false := rfl
@[simp] theorem State.hardReset_bitacc (s : State) : (s.hardReset).bitacc = 0 := rfl
@[simp] theorem State.hardReset_bitcount (s : State) : (s.hardReset).bitcount = 0 := rfl
@[simp] theorem State.hardReset_bytes (s : State) : (s.hardReset).bytes = [] := rfl
@[simp] theorem State.hardReset_out (s : State) : (s.hardReset).out = Out.none := rfl
@[simp] theorem State.hardReset_pins (s : State) : (s.hardReset).pins = s.pins := rfl
@[simp] theorem State.hardReset_stream (s : State) : (s.hardReset).stream = s.stream := rfl

/-! The fields that `PushBit` and the clock edge leave alone. -/

@[simp] theorem State.pushBit_variant (s : State) (b : Bool) : (s.pushBit b).variant = s.variant := by unfold State.pushBit; split <;> rfl
@[simp] theorem State.pushBit_state (s : State) (b : Bool) : (s.pushBit b).state = s.state := by unfold State.pushBit; split <;> rfl
@[simp] theorem State.pushBit_sampleIndex (s : State) (b : Bool) : (s.pushBit b).sampleIndex = s.sampleIndex := by unfold State.pushBit; split <;> rfl
@[simp] theorem State.pushBit_lastchange (s : State) (b : Bool) : (s.pushBit b).lastchange = s.lastchange := by unfold State.pushBit; split <;> rfl
@[simp] theorem State.pushBit_ticklength (s : State) (b : Bool) : (s.pushBit b).ticklength = s.ticklength := by unfold State.pushBit; split <;> rfl
@[simp] theorem State.pushBit_lastlevel (s : State) (b : Bool) : (s.pushBit b).lastlevel = s.lastlevel := by unfold State.pushBit; split <;> rfl
@[simp] theorem State.pushBit_pins (s : State) (b : Bool) : (s.pushBit b).pins = s.pins := by unfold State.pushBit; split <;> rfl
@[simp] theorem State.pushBit_stream (s : State) (b : Bool) : (s.pushBit b).stream = s.stream := by unfold State.pushBit; split <;> rfl

@[simp] theorem State.present_variant (s : State) : s.present.variant = s.variant := by unfold State.present; split <;> rfl
@[simp] theorem State.present_state (s : State) : s.present.state = s.state := by unfold State.present; split <;> rfl
@[simp] theorem State.present_sampleIndex (s : State) : s.present.sampleIndex = s.sampleIndex := by unfold State.present; split <;> rfl
@[simp] theorem State.present_lastchange (s : State) : s.present.lastchange = s.lastchange := by unfold State.present; split <;> rfl
@[simp] theorem State.present_ticklength (s : State) : s.present.ticklength = s.ticklength := by unfold State.present; split <;> rfl
@[simp] theorem State.present_lastlevel (s : State) : s.present.lastlevel = s.lastlevel := by unfold State.present; split <;> rfl
@[simp] theorem State.present_bitacc (s : State) : s.present.bitacc = s.bitacc := by unfold State.present; split <;> rfl
@[simp] theorem State.present_bitcount (s : State) : s.present.bitcount = s.bitcount := by unfold State.present; split <;> rfl
@[simp] theorem State.present_bytes (s : State) : s.present.bytes = s.bytes := by unfold State.present; split <;> rfl
@[simp] theorem State.present_out (s : State) : s.present.out = Out.none := by unfold State.present; split <;> rfl

end Sys2Proof.Machine
end

