-- ==== Sys2Proof/Laws/Ops.lean ====
section
/-! SUPPORT. What each shared operation can do, said once. -/

namespace Sys2Proof.Machine

theorem shiftIn_toNat (acc : Byte) (b : Bool) : (shiftIn acc b).toNat = (2 * acc.toNat + b.toNat) % 256 := by
  simp [shiftIn]

/-- `PushBit` on the eighth bit: the byte is appended, the accumulator is empty again. -/
theorem State.pushBit_completes (s : State) (b : Bool) (h : s.bitcount.toNat = 7) :
    s.pushBit b =
      { s with
        bitacc := 0
        bitcount := 0
        bytes := s.bytes ++ [shiftIn s.bitacc b]
        out := { s.out with bit := some b, byte := some (shiftIn s.bitacc b) } } := by
  simp [State.pushBit, byteBits, h, Memory.append]

/-- `PushBit` on any other bit: only the accumulator and its count change. -/
theorem State.pushBit_accumulates (s : State) (b : Bool) (h : s.bitcount.toNat ≠ 7) :
    s.pushBit b =
      { s with
        bitacc := shiftIn s.bitacc b
        bitcount := BitVec.ofNat 3 (s.bitcount.toNat + 1)
        out := { s.out with bit := some b } } := by
  have h' : ¬ s.bitcount.toNat + 1 = byteBits := by simp [byteBits]; omega
  simp [State.pushBit, h']

@[simp] theorem State.pushBit_out_bit (s : State) (b : Bool) : (s.pushBit b).out.bit = some b := by
  unfold State.pushBit; split <;> rfl

@[simp] theorem State.pushBit_out_frame (s : State) (b : Bool) : (s.pushBit b).out.frame = s.out.frame := by
  unfold State.pushBit; split <;> rfl

/-- The Byte Sequence after a `PushBit`: with the completed byte at its end, or as before. -/
theorem State.pushBit_bytes (s : State) (b : Bool) :
    (s.pushBit b).bytes = if s.bitcount.toNat = 7 then s.bytes ++ [shiftIn s.bitacc b] else s.bytes := by
  split
  · rw [s.pushBit_completes b ‹_›]
  · rw [s.pushBit_accumulates b ‹_›]

/-- The byte event of a `PushBit`. -/
theorem State.pushBit_out_byte (s : State) (b : Bool) (h : s.out.byte = none) :
    (s.pushBit b).out.byte = if s.bitcount.toNat = 7 then some (shiftIn s.bitacc b) else none := by
  split
  · rw [s.pushBit_completes b ‹_›]
  · rw [s.pushBit_accumulates b ‹_›]; exact h

/-- The count after a `PushBit`. -/
theorem State.pushBit_bitcount (s : State) (b : Bool) :
    (s.pushBit b).bitcount.toNat = (s.bitcount.toNat + 1) % 8 := by
  by_cases h : s.bitcount.toNat = 7
  · rw [s.pushBit_completes b h]; simp [h]
  · rw [s.pushBit_accumulates b h]; simp

/-- The accumulator after a `PushBit`. -/
theorem State.pushBit_bitacc (s : State) (b : Bool) :
    (s.pushBit b).bitacc = if s.bitcount.toNat = 7 then 0 else shiftIn s.bitacc b := by
  split
  · rw [s.pushBit_completes b ‹_›]
  · rw [s.pushBit_accumulates b ‹_›]

/-- Where a `PushBit` stores, if it stores (rules R50, R55). -/
theorem State.storeIndex_eq (s : State) :
    s.storeIndex = if s.bitcount.toNat = 7 then some s.bytes.length else none := by
  simp [State.storeIndex, byteBits, Memory.nextIndex]

/-- The internal reset leaves the record of a hard reset into the same variant (rule R182). -/
theorem State.resetAll_eq (s : State) :
    s.resetAll = { State.resetWith s.variant with out := s.out, pins := s.pins, stream := s.stream } := rfl

/-- The hard reset leaves the record of a fresh instance (rule R91). -/
theorem State.hardReset_eq (s : State) :
    s.hardReset = { State.resetWith s.pins.cfgVariant with pins := s.pins, stream := s.stream } := rfl

/-- A clock edge at which the environment presents `p`. -/
theorem State.present_cons (s : State) (p : Pins) (rest : List Pins) (h : s.stream = p :: rest) :
    s.present = { s with pins := p, stream := rest, out := Out.none } := by
  simp [State.present, h]

/-- A clock edge after the stream has ended. -/
theorem State.present_nil (s : State) (h : s.stream = []) :
    s.present = { s with pins := Pins.idle, out := Out.none } := by
  simp [State.present, h]

end Sys2Proof.Machine
end

