-- ==== Sys2Proof/Laws/PerInstr.lean ====
section
/-! SUPPORT. Facts about each operation as syntax, one lemma per constructor. -/

namespace Sys2Proof.Laws.EncodedInTable

/-- The operation is well formed, and its word matches a row of the operation table that stands for it. -/
def Statement (i : Instr) : Prop :=
  i.wf = true ∧ (table.any fun row => row.matches (encode i) && row.instr (levelBit (encode i)) == i) = true

theorem reset : Statement .reset := ⟨rfl, by decide⟩
theorem qIdle : Statement .qIdle := ⟨rfl, by decide⟩
theorem qRiseDc : Statement .qRiseDc := ⟨rfl, by decide⟩
theorem qRiseSc : Statement .qRiseSc := ⟨rfl, by decide⟩
theorem mHold : Statement .mHold := ⟨rfl, by decide⟩
theorem mFallCal : Statement .mFallCal := ⟨rfl, by decide⟩
theorem mFallLong : Statement .mFallLong := ⟨rfl, by decide⟩
theorem mFallShort : Statement .mFallShort := ⟨rfl, by decide⟩
theorem sRise : Statement .sRise := ⟨rfl, by decide⟩
theorem sSilence : Statement .sSilence := ⟨rfl, by decide⟩
theorem sGuard : Statement .sGuard := ⟨rfl, by decide⟩
theorem sHold : Statement .sHold := ⟨rfl, by decide⟩
theorem aEmitDc : Statement .aEmitDc := ⟨rfl, by decide⟩
theorem aDropDc : Statement .aDropDc := ⟨rfl, by decide⟩
theorem fHold : Statement .fHold := ⟨rfl, by decide⟩
theorem fFall : Statement .fFall := ⟨rfl, by decide⟩
theorem iWait : Statement .iWait := ⟨rfl, by decide⟩
theorem iSample (level : Bool) : Statement (.iSample level) := by cases level <;> exact ⟨rfl, by decide⟩
theorem nTimeout : Statement .nTimeout := ⟨rfl, by decide⟩
theorem nEdge (level : Bool) : Statement (.nEdge level) := by cases level <;> exact ⟨rfl, by decide⟩
theorem nWait : Statement .nWait := ⟨rfl, by decide⟩
theorem tWait : Statement .tWait := ⟨rfl, by decide⟩
theorem tSample (level : Bool) : Statement (.tSample level) := by cases level <;> exact ⟨rfl, by decide⟩
theorem aEmitSc : Statement .aEmitSc := ⟨rfl, by decide⟩
theorem aDropSc : Statement .aDropSc := ⟨rfl, by decide⟩

end Sys2Proof.Laws.EncodedInTable
end

