-- ==== Sys2Proof/Laws/Run.lean ====
section
/-! SUPPORT. How runs and their outputs are cut into pieces. -/

namespace Sys2Proof.Safety

open Sys2Proof.Machine

@[simp] theorem run_zero (s : State) : run 0 s = .next s := rfl

@[simp] theorem outputs_zero (s : State) : outputs 0 s = [] := rfl

/-- A run whose first step is known. -/
theorem run_succ {s t : State} (h : step s = .next t) (n : Nat) : run (n + 1) s = run n t := by
  simp [run, h]

/-- The outputs of a run whose first step is known. -/
theorem outputs_succ {s t : State} (h : step s = .next t) (n : Nat) : outputs (n + 1) s = t.out :: outputs n t := by
  simp [outputs, h]

/-- A run in two parts. -/
theorem run_add {s t : State} {m : Nat} (h : run m s = .next t) (n : Nat) : run (m + n) s = run n t := by
  induction m generalizing s with
  | zero => cases h; simp
  | succ m ih =>
    rw [Nat.add_right_comm]
    simp only [run] at h ⊢
    split at h <;> first | exact ih h | cases h

/-- The outputs of a run in two parts. -/
theorem outputs_add {s t : State} {m : Nat} (h : run m s = .next t) (n : Nat) :
    outputs (m + n) s = outputs m s ++ outputs n t := by
  induction m generalizing s with
  | zero => cases h; simp
  | succ m ih =>
    rw [Nat.add_right_comm]
    simp only [run, outputs] at h ⊢
    split at h <;> first | simp [ih h] | cases h

end Sys2Proof.Safety
end

