-- ==== Sys2Proof/Laws/Step.lean ====
section
/-! SUPPORT. What a step can do, said once: the operation chosen for each combination of state, level and flags, and the
inversion of `step`. -/

namespace Sys2Proof.Machine

/-- The step with its selection read by fields instead of by the table. -/
theorem step_eq (s : State) :
    step s =
      if s.present.active then
        match s.present.selector.select with
        | .ok i => exec i s.present
        | .error why => .refused (.reservedSelector why)
      else .next s.present := by
  simp only [step, State.selectorWord, decode_word] <;> rfl

/-- A clock edge without a reset and without a sample. -/
theorem step_inactive (s : State) (h : s.present.active = false) : step s = .next s.present := by
  simp [step_eq, h]

/-- An active clock edge on which `i` is selected. -/
theorem step_active (s : State) (i : Instr) (h : s.present.active = true) (hi : s.present.selector.select = .ok i) :
    step s = exec i s.present := by
  simp [step_eq, h, hi]

/-- When each operation is the one selected from a state whose pins are presented (rule R74), in the numbers of rule R31. -/
inductive Chosen (t : State) : Instr → Prop
  | reset (hr : t.pins.rst = true) : Chosen t .reset
  | qIdle (hr : t.pins.rst = false) (hs : t.state = .quiet) (hl : t.pins.level = false) : Chosen t .qIdle
  | qRiseDc (hr : t.pins.rst = false) (hv : t.variant = .dc) (hs : t.state = .quiet) (hl : t.pins.level = true) :
      Chosen t .qRiseDc
  | qRiseSc (hr : t.pins.rst = false) (hv : t.variant = .sc) (hs : t.state = .quiet) (hl : t.pins.level = true) :
      Chosen t .qRiseSc
  | mHold (hr : t.pins.rst = false) (hv : t.variant = .dc) (hs : t.state = .mark) (hl : t.pins.level = true) :
      Chosen t .mHold
  | mFallCal (hr : t.pins.rst = false) (hv : t.variant = .dc) (hs : t.state = .mark) (hl : t.pins.level = false)
      (hk : t.ticklength = 0) : Chosen t .mFallCal
  | mFallLong (hr : t.pins.rst = false) (hv : t.variant = .dc) (hs : t.state = .mark) (hl : t.pins.level = false)
      (hk : t.ticklength ≠ 0) (hg : 3 * t.ticklength < 2 * t.elapsed) : Chosen t .mFallLong
  | mFallShort (hr : t.pins.rst = false) (hv : t.variant = .dc) (hs : t.state = .mark) (hl : t.pins.level = false)
      (hk : t.ticklength ≠ 0) (hg : 2 * t.elapsed ≤ 3 * t.ticklength) : Chosen t .mFallShort
  | sRise (hr : t.pins.rst = false) (hv : t.variant = .dc) (hs : t.state = .space) (hl : t.pins.level = true) :
      Chosen t .sRise
  | sSilence (hr : t.pins.rst = false) (hv : t.variant = .dc) (hs : t.state = .space) (hl : t.pins.level = false)
      (hk : t.ticklength ≠ 0) (hz : 50 * t.ticklength < t.elapsed) : Chosen t .sSilence
  | sGuard (hr : t.pins.rst = false) (hv : t.variant = .dc) (hs : t.state = .space) (hl : t.pins.level = false)
      (hk : t.ticklength = 0) : Chosen t .sGuard
  | sHold (hr : t.pins.rst = false) (hv : t.variant = .dc) (hs : t.state = .space) (hl : t.pins.level = false)
      (hk : t.ticklength ≠ 0) (hz : t.elapsed ≤ 50 * t.ticklength) : Chosen t .sHold
  | aEmitDc (hr : t.pins.rst = false) (hv : t.variant = .dc) (hs : t.state = .abort)
      (hf : frameOkDc t.bytes = true) : Chosen t .aEmitDc
  | aDropDc (hr : t.pins.rst = false) (hv : t.variant = .dc) (hs : t.state = .abort)
      (hf : frameOkDc t.bytes = false) : Chosen t .aDropDc
  | fHold (hr : t.pins.rst = false) (hv : t.variant = .sc) (hs : t.state = .firstmark) (hl : t.pins.level = true) :
      Chosen t .fHold
  | fFall (hr : t.pins.rst = false) (hv : t.variant = .sc) (hs : t.state = .firstmark) (hl : t.pins.level = false) :
      Chosen t .fFall
  | iWait (hr : t.pins.rst = false) (hv : t.variant = .sc) (hs : t.state = .inmessage) (hk : t.ticklength ≠ 0)
      (hh : 2 * t.elapsed < t.ticklength) : Chosen t .iWait
  | iSample (hr : t.pins.rst = false) (hv : t.variant = .sc) (hs : t.state = .inmessage) (hk : t.ticklength ≠ 0)
      (hh : t.ticklength ≤ 2 * t.elapsed) : Chosen t (.iSample t.pins.level)
  | nTimeout (hr : t.pins.rst = false) (hv : t.variant = .sc) (hs : t.state = .needchange) (hk : t.ticklength ≠ 0)
      (ho : 2 * t.ticklength < t.elapsed) : Chosen t .nTimeout
  | nEdge (hr : t.pins.rst = false) (hv : t.variant = .sc) (hs : t.state = .needchange) (hk : t.ticklength ≠ 0)
      (ho : t.elapsed ≤ 2 * t.ticklength) (hx : t.pins.level ≠ t.lastlevel) : Chosen t (.nEdge t.pins.level)
  | nWait (hr : t.pins.rst = false) (hv : t.variant = .sc) (hs : t.state = .needchange) (hk : t.ticklength ≠ 0)
      (ho : t.elapsed ≤ 2 * t.ticklength) (hx : t.pins.level = t.lastlevel) : Chosen t .nWait
  | tWait (hr : t.pins.rst = false) (hv : t.variant = .sc) (hs : t.state = .tickwait) (hk : t.ticklength ≠ 0)
      (hw : 2 * t.elapsed < 3 * t.ticklength) : Chosen t .tWait
  | tSample (hr : t.pins.rst = false) (hv : t.variant = .sc) (hs : t.state = .tickwait) (hk : t.ticklength ≠ 0)
      (hw : 3 * t.ticklength ≤ 2 * t.elapsed) : Chosen t (.tSample t.pins.level)
  | aEmitSc (hr : t.pins.rst = false) (hv : t.variant = .sc) (hs : t.state = .abort)
      (hf : frameOkSc t.bytes = true) : Chosen t .aEmitSc
  | aDropSc (hr : t.pins.rst = false) (hv : t.variant = .sc) (hs : t.state = .abort)
      (hf : frameOkSc t.bytes = false) : Chosen t .aDropSc

/-- Each operation is selected where `Chosen` says. -/
theorem select_of_chosen {t : State} {i : Instr} (h : Chosen t i) : t.selector.select = .ok i := by
  cases hv : t.variant <;> cases h <;>
    simp_all [Selector.select, State.selector, State.flagF, State.flagK_eq, State.flagX_eq, State.flagH_eq, State.flagW_eq, State.flagG_eq, State.flagO_eq,
      State.flagZ_eq, Nat.not_lt_of_le, Nat.not_le_of_lt]

/-- An operation is selected only where `Chosen` says. -/
theorem chosen_of_select {t : State} {i : Instr} (h : t.selector.select = .ok i) : Chosen t i := by
  cases hr : t.pins.rst with
  | true =>
    simp [Selector.select, State.selector, hr] at h
    exact h ▸ .reset hr
  | false =>
    cases hv : t.variant <;> cases hs : t.state <;>
      simp [Selector.select, State.selector, State.flagF, State.flagK_eq, State.flagX_eq, State.flagH_eq,
        State.flagW_eq, State.flagG_eq, State.flagO_eq, State.flagZ_eq, hr, hv, hs] at h <;>
      (repeat' split at h) <;> (try simp at h) <;> subst h <;> constructor <;>
      first | assumption | omega | simp_all

/-- The inversion of `step`: a next state is that of a clock edge without reset and sample, or that of the operation chosen. -/
theorem step_cases {s u : State} (h : step s = .next u) :
    (s.present.active = false ∧ u = s.present) ∨
    (s.present.active = true ∧ ∃ i, Chosen s.present i ∧ exec i s.present = .next u) := by
  rw [step_eq] at h
  split at h
  · rename_i ha
    split at h
    · rename_i i hi
      exact .inr ⟨ha, i, chosen_of_select hi, h⟩
    · cases h
  · rename_i ha
    exact .inl ⟨by simpa using ha, by cases h; rfl⟩

/-- The other way: where an operation is chosen on an active clock edge, the step is its meaning. -/
theorem step_of_chosen {s : State} {i : Instr} (ha : s.present.active = true) (h : Chosen s.present i) :
    step s = exec i s.present :=
  step_active s i ha (select_of_chosen h)

end Sys2Proof.Machine
end

