-- ==== Sys2Proof/Tests/Slice0.lean ====
section
/-! SUPPORT. Small tests: ill-formed terms, words written out from the encodings of rule R74, single steps taken from the test
vectors of 95_test_vectors.md (their labels stand in the names), and for every statement with hypotheses a state that meets
them. -/

namespace Sys2Proof.Tests

open Sys2Proof.Machine Sys2Proof.Safety

/-! ## Well-formedness (rules R76, R78, R79) -/

theorem test_wf_instr : (Instr.nEdge true).wf = true := by decide

theorem test_wf_high_refused : (Stim.high 0).wf = false := by decide

theorem test_wf_low_refused : (Stim.low 0).wf = false := by decide

theorem test_wf_pulse_refused : (Stim.pulse 0 1).wf = false ∧ (Stim.pulse 1 0).wf = false := by decide

theorem test_wf_manch_refused : (Stim.manch 0 [.bit true]).wf = false := by decide

theorem test_wf_stimulus_refused : Stimulus.wf ⟨.dc, [.high 3, .low 0]⟩ = false := by decide

theorem test_wf_stimulus : Stimulus.wf ⟨.sc, [.manch 4 [.bit true, .byte 0xF0], .low 12]⟩ = true := by decide

/-- Entry U4: `G == 1` with `W == 0` is not computed by any state. -/
theorem test_wf_selector_refused : (Selector.ofWord 0b00001010101100).computable = false := by decide

theorem test_wf_selector : (Selector.ofWord 0x02B8).computable = true := by decide

/-! ## Decoding: each word is the pattern of rule R74 with its free bits filled in by hand -/

/-- The word decodes to the operation. -/
def selects (w : SelWord) (i : Instr) : Bool :=
  match decode w with
  | .ok j => j == i
  | .error _ => false

/-- The word is refused under the class. -/
def refuses (w : SelWord) (why : Reserved) : Bool :=
  match decode w with
  | .ok _ => false
  | .error r => r == why

theorem test_decode_reset : selects 0b10110101010101 .reset = true := by decide
theorem test_decode_qIdle : selects 0b01000010101010 .qIdle = true := by decide
theorem test_decode_qRiseDc : selects 0b00000101111110 .qRiseDc = true := by decide
theorem test_decode_qRiseSc : selects 0b01000101111110 .qRiseSc = true := by decide
theorem test_decode_mHold : selects 0b00001110101010 .mHold = true := by decide
theorem test_decode_mFallCal : selects 0b00001000111110 .mFallCal = true := by decide
theorem test_decode_mFallLong : selects 0b00001010111001 .mFallLong = true := by decide
theorem test_decode_mFallShort : selects 0b00001011110001 .mFallShort = true := by decide
theorem test_decode_sRise : selects 0b00010111111111 .sRise = true := by decide
theorem test_decode_sSilence : selects 0b00010010111110 .sSilence = true := by decide
theorem test_decode_sGuard : selects 0b00010001111111 .sGuard = true := by decide
theorem test_decode_sHold : selects 0b00010010111100 .sHold = true := by decide
theorem test_decode_aEmitDc : selects 0b00011111111111 .aEmitDc = true := by decide
theorem test_decode_aDropDc : selects 0b00011010111110 .aDropDc = true := by decide
theorem test_decode_fHold : selects 0b01100101111110 .fHold = true := by decide
theorem test_decode_fFall : selects 0b01100000111110 .fFall = true := by decide
theorem test_decode_iWait : selects 0b01101111000000 .iWait = true := by decide
theorem test_decode_iSample : selects 0b01101111100000 (.iSample true) = true := by decide
theorem test_decode_iSample_low : selects 0b01101010100000 (.iSample false) = true := by decide
theorem test_decode_nTimeout : selects 0b01110111111100 .nTimeout = true := by decide
theorem test_decode_nEdge : selects 0b01110111111000 (.nEdge true) = true := by decide
theorem test_decode_nEdge_low : selects 0b01110011111000 (.nEdge false) = true := by decide
theorem test_decode_nWait : selects 0b01110010100000 .nWait = true := by decide
theorem test_decode_tWait : selects 0b01111111100000 .tWait = true := by decide
theorem test_decode_tSample : selects 0b01111111111000 (.tSample true) = true := by decide
theorem test_decode_tSample_low : selects 0b01111010110000 (.tSample false) = true := by decide
theorem test_decode_aEmitSc : selects 0b01011010111101 .aEmitSc = true := by decide
theorem test_decode_aDropSc : selects 0b01011111111100 .aDropSc = true := by decide

/-- Rule R75, the three classes; and a number with a bit above bit 13. -/
theorem test_decode_reserved :
    refuses 0b00110010111111 .scStateInDc = true ∧ refuses 0b01001100000000 .dcStateInSc = true ∧
    refuses 0b01010000000000 .dcStateInSc = true ∧ refuses 0b01111001111111 .uncalibratedSc = true ∧
    decodeTableWord 16 0x4000 = none := by decide

theorem test_decode_table_word :
    decodeTableWord 16 0x1DC0 = some (.nEdge true) ∧ decodeTableWord 16 0x2000 = some .reset := by decide

/-! ## Single steps -/

/-- A state in the notation of 95_test_vectors.md, with one sample presented next. -/
def before (v : Variant) (st : DecoderState) (si lc t : Nat) (ll : Bool) (acc : Byte) (n : BitVec 3) (bs : Memory)
    (level : Bool) : State where
  variant := v
  state := st
  sampleIndex := si
  lastchange := lc
  ticklength := t
  lastlevel := ll
  bitacc := acc
  bitcount := n
  bytes := bs
  out := Out.none
  pins := Pins.idle
  stream := [Pins.sample level]

/-- The state has the record and the outputs. -/
def has (s : State) (st : DecoderState) (si lc t : Nat) (ll : Bool) (acc : Byte) (n : BitVec 3) (bs : Memory)
    (o : Out) : Bool :=
  s.state == st && s.sampleIndex == si && s.lastchange == lc && s.ticklength == t && s.lastlevel == ll &&
    s.bitacc == acc && s.bitcount == n && s.bytes == bs && s.out == o

/-- The step goes on, and the next state passes the check. -/
def nextHas (s : State) (check : State → Bool) : Bool :=
  match step s with
  | .next t => check t
  | .fault _ => false
  | .refused _ => false

/-- The selector word of the step and what the step gives. -/
def stepGives (s : State) (w : SelWord) (check : State → Bool) : Bool :=
  s.present.selectorWord == w && nextHas s check

/-- The step is refused under the class. -/
def stepRefuses (s : State) (why : Reserved) : Bool :=
  match step s with
  | .next _ => false
  | .fault _ => false
  | .refused r => r == .reservedSelector why

theorem test_v1_qIdle : stepGives (before .dc .quiet 41 0 0 false 0 0 [] false) 0x003E
    (has · .quiet 42 0 0 false 0 0 [] Out.none) = true := by decide

theorem test_v2_qRiseDc : stepGives (before .dc .quiet 7 0 0 false 0 0 [] true) 0x017E
    (has · .mark 0 0 0 false 0 0 [] Out.none) = true := by decide

theorem test_v3_qRiseSc : stepGives (before .sc .quiet 3 0 0 false 0 0 [] true) 0x117E
    (has · .firstmark 0 0 0 false 0 0 [] Out.none) = true := by decide

theorem test_v4_mHold : stepGives (before .dc .mark 10 0 0 false 0 0 [] true) 0x037E
    (has · .mark 11 0 0 false 0 0 [] Out.none) = true := by decide

theorem test_v5_mFallCal : stepGives (before .dc .mark 99 0 0 false 0 0 [] false) 0x023E
    (has · .space 100 100 100 false 0 1 [] ⟨some false, none, none⟩) = true := by decide

theorem test_v6_mFallCal_shortest : stepGives (before .dc .mark 0 0 0 false 0 0 [] false) 0x023E
    (has · .space 1 1 1 false 0 1 [] ⟨some false, none, none⟩) = true := by decide

theorem test_v11_mFallLong_odd : stepGives (before .dc .mark 351 200 101 false 0 1 [] false) 0x02B8
    (has · .space 352 352 101 false 1 2 [] ⟨some true, none, none⟩) = true := by decide

theorem test_v13_mFallLong_byte : stepGives (before .dc .mark 359 200 100 false 0x2A 7 [] false) 0x02B8
    (has · .space 360 360 100 false 0 0 [0x55] ⟨some true, some 0x55, none⟩) = true := by decide

theorem test_v8_mFallShort_equal : stepGives (before .dc .mark 349 200 100 false 0 1 [] false) 0x02B0
    (has · .space 350 350 100 false 0 2 [] ⟨some false, none, none⟩) = true := by decide

theorem test_v10_mFallShort_odd : stepGives (before .dc .mark 350 200 101 false 0 1 [] false) 0x02A0
    (has · .space 351 351 101 false 0 2 [] ⟨some false, none, none⟩) = true := by decide

theorem test_v14_sRise : stepGives (before .dc .space 199 100 100 false 0 1 [] true) 0x05E0
    (has · .mark 200 200 100 false 0 1 [] Out.none) = true := by decide

theorem test_v18_sRise_past_bound : stepGives (before .dc .space 5360 360 100 false 1 2 [] true) 0x05FE
    (has · .mark 5361 5361 100 false 1 2 [] Out.none) = true := by decide

theorem test_v17_sSilence : stepGives (before .dc .space 5360 360 100 false 1 2 [] false) 0x04BE
    (has · .abort 5361 360 100 false 1 2 [] Out.none) = true := by decide

theorem test_v16_sHold_at_bound : stepGives (before .dc .space 5359 360 100 false 1 2 [] false) 0x04BC
    (has · .space 5360 360 100 false 1 2 [] Out.none) = true := by decide

theorem test_v19_sGuard : stepGives (before .dc .space 9998 0 0 false 0 0 [] false) 0x043E
    (has · .space 9999 0 0 false 0 0 [] Out.none) = true := by decide

theorem test_v21_aEmitDc : stepGives (before .dc .abort 6000 900 100 false 0 0 [0x55] true) 0x07FF
    (has · .quiet 0 0 0 false 0 0 [] ⟨none, none, some [0x55]⟩) = true := by decide

theorem test_v22_aEmitDc_leftover : stepGives (before .dc .abort 6000 900 100 false 5 3 [0x55, 0x01] false) 0x06BF
    (has · .quiet 0 0 0 false 0 0 [] ⟨none, none, some [0x55, 0x01]⟩) = true := by decide

theorem test_v20_aDropDc : stepGives (before .dc .abort 5361 360 100 false 1 2 [] false) 0x06BE
    (has · .quiet 0 0 0 false 0 0 [] Out.none) = true := by decide

theorem test_v23_fHold : stepGives (before .sc .firstmark 10 0 0 false 0 0 [] true) 0x197E
    (has · .firstmark 11 0 0 false 0 0 [] Out.none) = true := by decide

theorem test_v24_fFall : stepGives (before .sc .firstmark 49 0 0 false 0 0 [] false) 0x183E
    (has · .inmessage 50 50 50 false 1 1 [] ⟨some true, none, none⟩) = true := by decide

theorem test_v27_iWait : stepGives (before .sc .inmessage 73 50 50 false 1 1 [] false) 0x1A80
    (has · .inmessage 74 50 50 false 1 1 [] Out.none) = true := by decide

theorem test_v29_iWait_odd : stepGives (before .sc .inmessage 75 51 51 false 1 1 [] true) 0x1BC0
    (has · .inmessage 76 51 51 false 1 1 [] Out.none) = true := by decide

theorem test_v28_iSample : stepGives (before .sc .inmessage 74 50 50 false 1 1 [] false) 0x1AA0
    (has · .needchange 75 50 50 false 1 1 [] Out.none) = true := by decide

theorem test_v30_iSample_odd : stepGives (before .sc .inmessage 76 51 51 false 1 1 [] true) 0x1BE0
    (has · .needchange 77 51 51 true 1 1 [] Out.none) = true := by decide

theorem test_v36_nTimeout_over_edge : stepGives (before .sc .needchange 12 4 4 false 1 1 [] true) 0x1DFC
    (has · .abort 13 4 4 false 1 1 [] Out.none) = true := by decide

theorem test_v34_nEdge_falling : stepGives (before .sc .needchange 15 8 4 true 3 2 [] false) 0x1CF8
    (has · .tickwait 16 16 4 true 6 3 [] ⟨some false, none, none⟩) = true := by decide

theorem test_v38_nEdge_byte : stepGives (before .sc .needchange 15 8 4 false 0x7A 7 [] true) 0x1DF8
    (has · .tickwait 16 16 4 false 0 0 [0xF5] ⟨some true, some 0xF5, none⟩) = true := by decide

theorem test_v32_nWait : stepGives (before .sc .needchange 6 4 4 false 1 1 [] false) 0x1CA0
    (has · .needchange 7 4 4 false 1 1 [] Out.none) = true := by decide

theorem test_v41_tWait_odd : stepGives (before .sc .tickwait 14 8 5 false 3 2 [] true) 0x1FE0
    (has · .tickwait 15 8 5 false 3 2 [] Out.none) = true := by decide

theorem test_v40_tSample : stepGives (before .sc .tickwait 13 8 4 false 3 2 [] false) 0x1EB0
    (has · .needchange 14 8 4 false 3 2 [] Out.none) = true := by decide

theorem test_v42_tSample_odd : stepGives (before .sc .tickwait 15 8 5 false 3 2 [] true) 0x1FF8
    (has · .needchange 16 8 5 true 3 2 [] Out.none) = true := by decide

theorem test_v45_aEmitSc : stepGives (before .sc .abort 140 131 4 false 0 0 [0xF5, 0xA3] false) 0x16BD
    (has · .quiet 0 0 0 false 0 0 [] ⟨none, none, some [0xF5, 0xA3]⟩) = true := by decide

theorem test_v46_aDropSc_one_byte : stepGives (before .sc .abort 140 131 4 false 0 0 [0xF5] false) 0x16BC
    (has · .quiet 0 0 0 false 0 0 [] Out.none) = true := by decide

theorem test_v48_aDropSc_second_byte : stepGives (before .sc .abort 140 131 4 false 0 0 [0xC3, 0xF0] false) 0x16BC
    (has · .quiet 0 0 0 false 0 0 [] Out.none) = true := by decide

/-- Rule R91: a hard reset in the middle of a Message, into the other variant, with a sample presented as well. -/
theorem test_reset_mid_message :
    nextHas { before .dc .abort 9 3 2 true 5 3 [0x55] true with stream := [⟨true, .sc, true, true⟩] } (fun t =>
      has t .quiet 0 0 0 false 0 0 [] Out.none && t.variant == .sc) = true := by decide

/-- Rule R95. -/
theorem test_no_sample :
    nextHas { before .sc .needchange 12 4 4 false 1 1 [] true with stream := [⟨false, .dc, false, true⟩] }
      (has · .needchange 12 4 4 false 1 1 [] Out.none) = true := by decide

/-! ## The table word placed, and the stimulus notation -/

theorem test_placed_word :
    nextHas (State.reset.withFetchWord 16 0x1DC0) (fun t => t.state == .tickwait && t.out.bit == some true) = true ∧
    nextHas (State.reset.withFetchWord 16 0x1601) (fun t => t.state == .quiet && t.out.frame != none) = true := by decide

theorem test_placed_reserved :
    stepRefuses (State.reset.withFetchWord 16 0x0800) .scStateInDc = true ∧
    stepRefuses (State.reset.withFetchWord 16 0x1200) .dcStateInSc = true ∧
    stepRefuses (State.reset.withFetchWord 16 0x1A00) .uncalibratedSc = true := by decide

/-- Rule R79: `MANCH(T; 1 0)` is `H<T> L<T> H<T> H<T> L<T>`, and `BYTE(v)` its eight bits. -/
theorem test_manch_levels :
    stimLevels (.manch 2 [.bit true, .bit false]) = [true, true, false, false, true, true, true, true, false, false] ∧
    manchBits (.byte 0xA5) = [true, false, true, false, false, true, false, true] := by decide

theorem test_feed :
    (State.reset.feed ⟨.sc, [.pulse 1 2]⟩).stream =
      [⟨true, .sc, false, false⟩, Pins.sample true, Pins.sample false, Pins.sample false] := by decide

/-- Rule R53, its two examples. -/
theorem test_pack_examples :
    packBytes [false, true, false, true, false, true, false, true] = [0x55] ∧
    packBytes [true, true, false, false, false, false, true, true] = [0xC3] := by decide

/-! ## Witnesses: each hypothesis of a statement can be met, at the ends of its range where it has one -/

/-- A duration-coded state after one bit, `d` samples after the last change at the next sample, tick `t`. -/
def dcAt (st : DecoderState) (t d : Nat) (level : Bool) : State :=
  before .dc st (9 + d) 10 t false 0 1 [] level

/-- A self-clocking state after one bit, `d` samples after the last change at the next sample, tick `t`. -/
def scAt (st : DecoderState) (t d : Nat) (ll level : Bool) : State :=
  before .sc st (9 + d) 10 t ll 1 1 [] level

/-- SelectorDecodesExactlyItsRow, PlacedWordRunsNext: a well-formed operation and a word of it with free bits set. -/
theorem test_witness_decode :
    (Instr.nEdge true).wf = true ∧ selects 0x1DFB (.nEdge true) = true ∧
    0x1DFB &&& careMask (.nEdge true) = encode (.nEdge true) := by decide

/-- ReservedSpaceIsExactlyRefused: a word for each clause. -/
theorem test_witness_reserved_space :
    (Selector.ofWord 0x2800).r = true ∧
    ((Selector.ofWord 0x0800).r = false ∧ (Selector.ofWord 0x0800).v = .dc ∧ (Selector.ofWord 0x0800).st = .firstmark) ∧
    ((Selector.ofWord 0x1200).v = .sc ∧ (Selector.ofWord 0x1200).st = .mark) ∧
    ((Selector.ofWord 0x1A7F).st = .inmessage ∧ (Selector.ofWord 0x1A7F).k = false) ∧
    ((Selector.ofWord 0x0600).v = .dc ∧ (Selector.ofWord 0x0600).st = .abort) ∧
    ((Selector.ofWord 0x1600).v = .sc ∧ (Selector.ofWord 0x1600).st = .abort) ∧
    ((Selector.ofWord 0x1E80).st = .tickwait ∧ (Selector.ofWord 0x1E80).k = true) := by decide

/-- SelectorWordLayout, ContradictoryFlagsNeverComputed: `lastchange` at `idx` (`d` is 0) and one below it (`d` is 1). -/
theorem test_witness_elapsed :
    (dcAt .space 0 0 true).lastchange = (dcAt .space 0 0 true).sampleIndex + 1 ∧ (dcAt .space 0 0 true).elapsed = 0 ∧
    (scAt .needchange 4 1 true false).lastchange ≤ (scAt .needchange 4 1 true false).sampleIndex + 1 ∧
    (scAt .needchange 4 1 true false).elapsed = 1 := by decide

/-- StepRunsTheSelectedOperation: with a reset, and with a sample. -/
theorem test_witness_step_runs :
    (let s := (scAt .tickwait 4 6 false true).present
     s.pins.sampleValid = true ∧ selects s.selectorWord (.tSample true) = true) ∧
    (let s := ({ State.reset with stream := [Pins.hardReset .sc] } : State).present
     s.pins.rst = true ∧ selects s.selectorWord .reset = true) := by decide

/-- CycleWithoutSampleDoesNothing, EndedStreamIsIdle, HardResetBeatsEverything. -/
theorem test_witness_cycles :
    (∃ s : State, ∃ p : Pins, s.stream = p :: [] ∧ p.rst = false ∧ p.sampleValid = false) ∧
    (∃ s : State, s.stream = []) ∧ (∃ s : State, ∃ p : Pins, s.stream = p :: [] ∧ p.rst = true) :=
  ⟨⟨{ State.reset with stream := [Pins.idle] }, Pins.idle, rfl, rfl, rfl⟩, ⟨State.reset, rfl⟩,
    ⟨{ State.reset with stream := [Pins.hardReset .sc] }, Pins.hardReset .sc, rfl, rfl⟩⟩

/-- ReservedStatesAreRefused, each clause. -/
theorem test_witness_reserved_states :
    (NextSample (dcAt .tickwait 4 1 true) true ∧ stepRefuses (dcAt .tickwait 4 1 true) .scStateInDc = true) ∧
    (NextSample (scAt .space 4 1 false true) true ∧ stepRefuses (scAt .space 4 1 false true) .dcStateInSc = true) ∧
    (NextSample (scAt .needchange 0 1 false true) true ∧
      stepRefuses (scAt .needchange 0 1 false true) .uncalibratedSc = true) := by decide

/-- FirstPulseCalibrates: `lastchange` at most `idx`, at both ends. -/
theorem test_witness_calibration :
    (dcAt .mark 0 0 false).lastchange ≤ (dcAt .mark 0 0 false).sampleIndex + 1 ∧
    (before .sc .firstmark 49 0 0 false 0 0 [] false).lastchange ≤ 50 := by decide

/-- PushBitShiftsAndCompletes, PushingOperationsFrame: the eighth bit, and another one. -/
theorem test_witness_push :
    (let s := before .dc .mark 20 10 4 false 0x7F 7 [0x01] false
     s.out.byte = none ∧ s.bitcount = 7 ∧ s.storeIndex = some 1 ∧
       ∃ t, exec .mFallLong s = .next t ∧ t.bytes = [0x01, 0xFF]) ∧
    (let s := before .dc .mark 20 10 4 false 0x3F 6 [0x01] false
     s.out.byte = none ∧ s.bitcount ≠ 7 ∧ s.storeIndex = none ∧ ∃ t, exec .mFallLong s = .next t ∧ t.bytes = [0x01]) :=
  ⟨⟨rfl, rfl, rfl, _, rfl, rfl⟩, ⟨rfl, by decide, rfl, _, rfl, rfl⟩⟩

/-- OtherOperationsFrame, ResettingOperationsFrame. -/
theorem test_witness_frames :
    (∃ t, exec (.tSample true) (scAt .tickwait 4 6 false true) = .next t ∧ t.lastlevel = true) ∧
    (∃ t, exec .aEmitDc (before .dc .abort 6000 900 100 false 0 0 [0x55] true) = .next t ∧ t.bytes = []) :=
  ⟨⟨_, rfl, rfl⟩, ⟨_, rfl, rfl⟩⟩

/-- QuietHandler, FirstmarkHandler. -/
theorem test_witness_level_handlers :
    NextSample (before .dc .quiet 7 0 0 false 0 0 [] false) false ∧
    NextSample (before .dc .quiet 7 0 0 false 0 0 [] true) true ∧
    NextSample (before .sc .quiet 7 0 0 false 0 0 [] true) true ∧
    NextSample (before .sc .firstmark 7 0 0 false 0 0 [] true) true ∧
    NextSample (before .sc .firstmark 7 0 0 false 0 0 [] false) false := by decide

/-- MarkHandler: high; unknown tick; `2*d` just above `3*T`; `2*d` at `3*T`. -/
theorem test_witness_mark :
    (NextSample (dcAt .mark 4 1 true) true ∧ (dcAt .mark 4 1 true).lastchange ≤ (dcAt .mark 4 1 true).sampleIndex) ∧
    (NextSample (dcAt .mark 0 1 false) false ∧ (dcAt .mark 0 1 false).ticklength = 0) ∧
    (NextSample (dcAt .mark 5 8 false) false ∧ 2 * (dcAt .mark 5 8 false).elapsed = 3 * 5 + 1) ∧
    (NextSample (dcAt .mark 4 6 false) false ∧ 2 * (dcAt .mark 4 6 false).elapsed = 3 * 4) := by decide

/-- SpaceHandler: high past the bound; unknown tick; `d` just above `50*T`; `d` at `50*T`. -/
theorem test_witness_space :
    (NextSample (dcAt .space 1 51 true) true ∧ (dcAt .space 1 51 true).lastchange ≤ (dcAt .space 1 51 true).sampleIndex) ∧
    (NextSample (dcAt .space 0 1 false) false ∧ (dcAt .space 0 1 false).ticklength = 0) ∧
    (NextSample (dcAt .space 1 51 false) false ∧ (dcAt .space 1 51 false).elapsed = 50 * 1 + 1) ∧
    (NextSample (dcAt .space 1 50 false) false ∧ (dcAt .space 1 50 false).elapsed = 50 * 1) := by decide

/-- AbortHandler: each clause. -/
theorem test_witness_abort :
    (let s := before .dc .abort 6000 900 100 false 0 0 [0x55] true; NextSample s true ∧ s.bytes.length ≥ 1) ∧
    (let s := before .dc .abort 6000 900 100 false 0 0 [] true; NextSample s true ∧ s.bytes = []) ∧
    (let s := before .sc .abort 140 131 4 false 0 0 [0xF5, 0xA3] false
     NextSample s false ∧ s.bytes.length ≥ 2 ∧ Memory.read s.bytes 0 = some 0xF5 ∧ (0xF5 : Byte).toNat / 16 = 0xF) ∧
    (let s := before .sc .abort 140 131 4 false 0 0 [0xE5, 0xA3] false
     NextSample s false ∧ Memory.read s.bytes 0 = some 0xE5 ∧ (0xE5 : Byte).toNat / 16 ≠ 0xF) ∧
    (let s := before .sc .abort 140 131 4 false 0 0 [0xF5] false; NextSample s false ∧ s.bytes.length < 2) := by
  refine ⟨?_, ?_, ?_, ?_, ?_⟩ <;> intro s <;> decide

/-- InmessageHandler: `2*d` just below `T`, at `T`, and just above it. -/
theorem test_witness_inmessage :
    (NextSample (scAt .inmessage 5 2 false true) true ∧ 2 * (scAt .inmessage 5 2 false true).elapsed = 5 - 1) ∧
    (NextSample (scAt .inmessage 4 2 false true) true ∧ 2 * (scAt .inmessage 4 2 false true).elapsed = 4) ∧
    (NextSample (scAt .inmessage 5 3 false true) true ∧ 2 * (scAt .inmessage 5 3 false true).elapsed = 5 + 1) := by decide

/-- NeedchangeHandler: `d` just above `2*T` with a transition; `d` at `2*T` with and without one. -/
theorem test_witness_needchange :
    (NextSample (scAt .needchange 4 9 false true) true ∧ (scAt .needchange 4 9 false true).elapsed = 2 * 4 + 1) ∧
    (NextSample (scAt .needchange 4 8 false true) true ∧ (scAt .needchange 4 8 false true).elapsed = 2 * 4) ∧
    (NextSample (scAt .needchange 4 8 true true) true ∧ (scAt .needchange 4 8 true true).lastlevel = true) := by decide

/-- TickwaitHandler: `2*d` just below `3*T`, at `3*T`, and just above it. -/
theorem test_witness_tickwait :
    (NextSample (scAt .tickwait 5 7 false true) true ∧ 2 * (scAt .tickwait 5 7 false true).elapsed = 3 * 5 - 1) ∧
    (NextSample (scAt .tickwait 4 6 false true) true ∧ 2 * (scAt .tickwait 4 6 false true).elapsed = 3 * 4) ∧
    (NextSample (scAt .tickwait 5 8 false true) true ∧ 2 * (scAt .tickwait 5 8 false true).elapsed = 3 * 5 + 1) := by decide

/-! ### States with the invariants, in the middle of a Message (InvariantsKeptByEveryStep, TimersKeptInBounds, NoStepStops,
CalibrationOncePerMessage, AbortEnteredOnlyByTimeout, BitsPackedMostSignificantFirst) -/

/-- A duration-coded Message after its first bit, at the last low sample before the timeout: the next step enters `ABORT`. -/
def inSpace : State :=
  before .dc .space 54 4 1 false 0 1 [] false

/-- A self-clocking Message after the byte 0xF5 and two bits more, on the last sample on which a transition counts. -/
def inNeedchange : State :=
  before .sc .needchange 47 40 4 false 2 2 [0xF5] true

/-- The first pulse of a self-clocking Message, 50 samples long, at its end. -/
def inFirstmark : State :=
  before .sc .firstmark 49 0 0 false 0 0 [] false

theorem test_witness_inv_space : Invariants inSpace ∧ TimersInBounds inSpace := by
  refine ⟨⟨?_, ?_, ?_, ?_, ?_, ?_, ?_, ?_, ?_, ?_, ?_, ?_⟩, ?_⟩ <;> decide

theorem test_witness_inv_needchange : Invariants inNeedchange ∧ TimersInBounds inNeedchange := by
  refine ⟨⟨?_, ?_, ?_, ?_, ?_, ?_, ?_, ?_, ?_, ?_, ?_, ?_⟩, ?_⟩ <;> decide

theorem test_witness_inv_firstmark : Invariants inFirstmark ∧ TimersInBounds inFirstmark := by
  refine ⟨⟨?_, ?_, ?_, ?_, ?_, ?_, ?_, ?_, ?_, ?_, ?_, ?_⟩, ?_⟩ <;> decide

/-- The steps from those three: into `ABORT`; a bit pushed with the tick kept; the tick calibrated. -/
theorem test_witness_inv_steps :
    (∃ t, step inSpace = .next t ∧ t.state = .abort) ∧
    (∃ t, step inNeedchange = .next t ∧ t.state = .tickwait ∧ t.ticklength = 4) ∧
    (∃ t, step inFirstmark = .next t ∧ inFirstmark.ticklength = 0 ∧ t.ticklength = 50) :=
  ⟨⟨_, rfl, rfl⟩, ⟨_, rfl, rfl, rfl⟩, ⟨_, rfl, rfl, rfl⟩⟩

/-- BitsPackedMostSignificantFirst: the ten bits of `inNeedchange`. -/
theorem test_witness_holds :
    Holds [true, true, true, true, false, true, false, true, true, false] inNeedchange := by decide

/-- StepsFollowTheStateGraph: an active step, its operation and its next state. -/
theorem test_witness_graph :
    inSpace.present.pins.sampleValid = true ∧ decode inSpace.present.selectorWord = .ok .sSilence ∧
    ∃ t, step inSpace = .next t ∧ arrow .dc .space .sSilence t.state = true :=
  ⟨rfl, rfl, _, rfl, rfl⟩

/-- VariantOnlyFromHardReset: a step without a reset and one with a reset. -/
theorem test_witness_variant :
    (inSpace.present.pins.rst = false ∧ ∃ t, step inSpace = .next t) ∧
    (let s : State := { inSpace with stream := [Pins.hardReset .sc] }
     s.present.pins.rst = true ∧ ∃ t, step s = .next t ∧ t.variant = .sc) :=
  ⟨⟨rfl, _, rfl⟩, ⟨rfl, _, rfl, rfl⟩⟩

/-- ByteSequenceIsAppendOnly, OutputsOfOneStep, EmittedFramesAreValid: a byte appended, and a frame emitted. -/
theorem test_witness_outputs :
    (∃ t, step (before .sc .needchange 15 8 4 false 0x7A 7 [] true) = .next t ∧ t.out.byte = some 0xF5) ∧
    (∃ t, step (before .sc .abort 140 131 4 false 0 0 [0xF5, 0xA3] false) = .next t ∧
      t.out.frame = some [0xF5, 0xA3]) :=
  ⟨⟨_, rfl, rfl⟩, ⟨_, rfl, rfl⟩⟩

/-- ByteSequenceReadOnlyInAbort: outside `ABORT`, without a reset, with another Byte Sequence. -/
theorem test_witness_unread :
    inNeedchange.state ≠ .abort ∧ inNeedchange.present.pins.rst = false ∧
    ∃ t, step inNeedchange = .next t ∧ t.bytes = [0xF5] := ⟨by decide, rfl, _, rfl, rfl⟩

/-- UnqualifiedPinsAreNotRead: two clock cycles that differ in `cfg_variant`, and two without a sample that differ in `level`. -/
theorem test_witness_pins :
    (let p := Pins.sample true
     let q : Pins := { p with cfgVariant := .sc }
     p.rst = false ∧ q.rst = false ∧ q.sampleValid = p.sampleValid ∧ q.level = p.level ∧ q ≠ p) ∧
    (let p := Pins.idle
     let q : Pins := { p with level := true }
     q.rst = false ∧ q.sampleValid = p.sampleValid ∧ p.sampleValid = false ∧ q ≠ p) ∧
    ∃ t, step (before .dc .quiet 7 0 0 false 0 0 [] true) = .next t :=
  ⟨by decide, by decide, _, rfl⟩

/-- QuietIgnoresTheSampleIndex: a step that stays in `QUIET`, and one that leaves it. -/
theorem test_witness_quiet :
    (∃ t, step (before .dc .quiet 7 0 0 false 0 0 [] false) = .next t ∧ t.state = .quiet) ∧
    (∃ t, step (before .dc .quiet 7 0 0 false 0 0 [] true) = .next t ∧ t.state ≠ .quiet) :=
  ⟨⟨_, rfl, rfl⟩, ⟨_, rfl, by decide⟩⟩

/-- ResetIsComplete: an `A_*` step, and a hard reset of another instance with the same `cfg_variant` and the same stream; two
states with one record. -/
theorem test_witness_reset_complete :
    (let s := before .dc .abort 6000 900 100 false 0 0 [0x55] true
     let r := before .sc .needchange 47 40 4 false 2 2 [0xF5] true
     r.pins.cfgVariant = s.variant ∧ r.stream = s.stream ∧
       (∃ t, exec .aEmitDc s = .next t ∧ t.stream = s.stream) ∧ ∃ u, exec .reset r = .next u ∧ u.stream = r.stream) ∧
    (let s := inSpace
     let t := { inSpace with out := ⟨some true, none, none⟩ }
     SameRecord s t ∧ s.stream = t.stream ∧ s ≠ t) :=
  ⟨⟨rfl, rfl, ⟨_, rfl, rfl⟩, ⟨_, rfl, rfl⟩⟩, by decide⟩

/-! ### Runs -/

/-- ShortRunsStayWithinLimits: eight cycles in an implementation with a four-bit counter and one byte. -/
theorem test_witness_limits :
    8 < 2 ^ (Limits.mk 4 1).idxWidth ∧ 8 < 8 * ((Limits.mk 4 1).frameCap + 1) ∧
    ∃ t, run 8 { State.resetWith .dc with stream := samples [true, true] } = .next t ∧ t.sampleIndex = 1 :=
  ⟨by decide, by decide, _, rfl, rfl⟩

/-- StuckHighLevelIsHeld: both variants, three samples and none. -/
theorem test_witness_stuck :
    (∃ s : State, s.variant = .dc ∧ s.state = .mark ∧ s.stream = samples (List.replicate 3 true) ++ [Pins.idle]) ∧
    (∃ s : State, s.variant = .sc ∧ s.state = .firstmark ∧ s.stream = samples (List.replicate 0 true) ++ []) :=
  ⟨⟨{ dcAt .mark 4 1 true with stream := samples (List.replicate 3 true) ++ [Pins.idle] }, rfl, rfl, rfl⟩,
    ⟨{ inFirstmark with stream := [] }, rfl, rfl, rfl⟩⟩

/-- SilenceEndsTheMessageExactly, MissingTransitionEndsTheMessageExactly: tick 1, each clause's number of samples. -/
theorem test_witness_timeouts :
    (∀ g ∈ [50, 51, 52],
      let s := { before .dc .space 4 4 1 false 0 1 [] false with stream := samples (List.replicate g false) ++ [] }
      s.variant = .dc ∧ s.state = .space ∧ s.ticklength ≠ 0 ∧ s.lastchange = s.sampleIndex ∧
        s.stream = samples (List.replicate g false) ++ []) ∧
    (∀ g ∈ [2, 3, 4],
      let s := { before .sc .tickwait 4 4 1 false 3 2 [0xF5, 0xA3] true with
        stream := samples (List.replicate g true) ++ [] }
      s.variant = .sc ∧ s.state = .tickwait ∧ s.ticklength ≠ 0 ∧ s.lastchange = s.sampleIndex ∧
        s.stream = samples (List.replicate g true) ++ []) :=
  ⟨fun _ _ => ⟨rfl, rfl, Nat.one_ne_zero, rfl, rfl⟩, fun _ _ => ⟨rfl, rfl, Nat.one_ne_zero, rfl, rfl⟩⟩

/-- MissingTransitionEndsTheMessageExactly: Byte Sequences on both sides of the validator. -/
theorem test_witness_preamble :
    (2 ≤ ([0xF0, 0x00] : Memory).length ∧ ∃ b : Byte, Memory.read [0xF0, 0x00] 0 = some b ∧ b.toNat / 16 = 0xF) ∧
    ¬ (2 ≤ ([0xF0] : Memory).length ∧ ∃ b : Byte, Memory.read [0xF0] 0 = some b ∧ b.toNat / 16 = 0xF) ∧
    ¬ (2 ≤ ([0xEF, 0xF0] : Memory).length ∧ ∃ b : Byte, Memory.read [0xEF, 0xF0] 0 = some b ∧ b.toNat / 16 = 0xF) :=
  ⟨⟨by decide, _, rfl, by decide⟩, by simp, fun ⟨_, b, h, hb⟩ => by cases h; revert hb; decide⟩

/-- DurationCodedMessageDecodes: tick 1, the shortest and the longest gap, a short and a long pulse. -/
theorem test_witness_dc_message :
    1 ≤ 1 ∧ (∀ p ∈ [(1, 1), (51, 2)], 1 ≤ p.1 ∧ p.1 ≤ 50 * 1 + 1 ∧ 1 ≤ p.2) ∧
    Invariants { State.resetWith .dc with stream := samples (dcLevels 1 [(1, 1), (51, 2)]
      ++ List.replicate (50 * 1 + 3) false) ++ [] } := by
  refine ⟨by decide, by decide, ?_, ?_, ?_, ?_, ?_, ?_, ?_, ?_, ?_, ?_, ?_, ?_⟩ <;> decide

/-- SelfClockingMessageDecodes: the shortest tick. -/
theorem test_witness_sc_message :
    2 ≤ 2 ∧ Invariants { State.resetWith .sc with stream := samples (scLevels 2 (true :: [false, true])
      ++ List.replicate (2 + 3) false) ++ [] } := by
  refine ⟨by decide, ?_, ?_, ?_, ?_, ?_, ?_, ?_, ?_, ?_, ?_, ?_, ?_⟩ <;> decide

/-- PulseDecisionIsScaleFree: a factor of 25, with the pulse at one and a half ticks and just past it. -/
theorem test_witness_scale :
    (NextSample (dcAt .mark 4 6 false) false ∧ NextSample (dcAt .mark (25 * 4) (25 * 6) false) false ∧
      (dcAt .mark 4 6 false).lastchange ≤ (dcAt .mark 4 6 false).sampleIndex ∧
      (dcAt .mark (25 * 4) (25 * 6) false).elapsed = 25 * (dcAt .mark 4 6 false).elapsed) ∧
    (NextSample (dcAt .mark 5 8 false) false ∧ NextSample (dcAt .mark (25 * 5) (25 * 8) false) false ∧
      (dcAt .mark 5 8 false).lastchange ≤ (dcAt .mark 5 8 false).sampleIndex ∧
      (dcAt .mark (25 * 5) (25 * 8) false).elapsed = 25 * (dcAt .mark 5 8 false).elapsed) := by decide

/-- ScaledMessagesPushTheSameBits: a factor of 3, a tick of 2, pulses at one and a half ticks and past it, other gaps. -/
theorem test_witness_scaled_messages :
    (∀ p ∈ [(1, 3), (101, 4)], 1 ≤ p.1 ∧ p.1 ≤ 50 * 2 + 1 ∧ 1 ≤ p.2) ∧
    (∀ p ∈ [(301, 9), (1, 12)], 1 ≤ p.1 ∧ p.1 ≤ 50 * (3 * 2) + 1) ∧
    [(301, 9), (1, 12)].map Prod.snd = [(1, 3), (101, 4)].map (fun p => 3 * p.2) ∧
    Invariants { State.resetWith .dc with
      stream := samples (dcLevels 2 [(1, 3), (101, 4)] ++ [false]) ++ [] } ∧
    Invariants { State.resetWith .dc with
      stream := samples (dcLevels (3 * 2) [(301, 9), (1, 12)] ++ [false]) ++ [] } := by
  refine ⟨by decide, by decide, by decide, ⟨?_, ?_, ?_, ?_, ?_, ?_, ?_, ?_, ?_, ?_, ?_, ?_⟩,
    ⟨?_, ?_, ?_, ?_, ?_, ?_, ?_, ?_, ?_, ?_, ?_, ?_⟩⟩ <;> decide

end Sys2Proof.Tests
end

section
/-! PROOFS. What one step can do to the Frame Assembler and to the sample index, said once for all operations, and the
statements about one step's outputs and about short runs that follow from it. -/

namespace Sys2Proof.Safety

open Sys2Proof.Machine

/-! ## The Frame Assembler under one step -/

/-- `PushBit` in the words of `BitPushed`, when no byte has been reported before it. -/
theorem bitPushed_pushBit (s : State) (b : Bool) (hout : s.out.byte = none) : BitPushed b s (s.pushBit b) := by
  have seven : s.bitcount = 7 ↔ s.bitcount.toNat = 7 := by bv_omega
  refine ⟨s.pushBit_out_bit b, fun full => ?_, fun room => ?_⟩
  · rw [s.pushBit_completes b (seven.mp full)]
    exact ⟨rfl, rfl, rfl, rfl⟩
  · have count := s.pushBit_bitcount b
    have room' : s.bitcount.toNat ≠ 7 := fun h => room (seven.mpr h)
    rw [s.pushBit_accumulates b room'] at count ⊢
    exact ⟨shiftIn_toNat s.bitacc b, count.trans (by omega), rfl, hout⟩

/-- What a step from `s` to `u` can do to the Frame Assembler (rules R140, R143 to R147): nothing, take one bit, or forget
the Message, with or without a frame. -/
inductive AssemblerEffect (s u : State) : Prop
  | kept (hout : u.out = Out.none) (hacc : u.bitacc = s.bitacc) (hcount : u.bitcount = s.bitcount)
      (hbytes : u.bytes = s.bytes)
  | pushed (b : Bool) (hpush : BitPushed b s u) (hframe : u.out.frame = none)
  | cleared (hbit : u.out.bit = none) (hbyte : u.out.byte = none) (hacc : u.bitacc = 0) (hcount : u.bitcount = 0)
      (hbytes : u.bytes = [])

/-- The operations grouped by their effect on the Frame Assembler. -/
theorem exec_assemblerEffect {i : Instr} {s u : State} (h : exec i s = .next u) : AssemblerEffect s u := by
  cases i with
  | reset | aEmitDc | aDropDc | aEmitSc | aDropSc =>
    obtain rfl := Host.Outcome.next.inj h
    exact .cleared rfl rfl rfl rfl rfl
  | mFallCal =>
    obtain rfl := Host.Outcome.next.inj h
    exact .pushed false (bitPushed_pushBit (s.beginSample.setTicklength s.elapsed) false rfl)
      (State.pushBit_out_frame _ false)
  | fFall =>
    obtain rfl := Host.Outcome.next.inj h
    exact .pushed true
      (bitPushed_pushBit ((s.beginSample.setTicklength s.elapsed).setLastchange s.idx) true rfl)
      (State.pushBit_out_frame _ true)
  | mFallLong =>
    obtain rfl := Host.Outcome.next.inj h
    exact .pushed true (bitPushed_pushBit s.beginSample true rfl) (State.pushBit_out_frame _ true)
  | mFallShort =>
    obtain rfl := Host.Outcome.next.inj h
    exact .pushed false (bitPushed_pushBit s.beginSample false rfl) (State.pushBit_out_frame _ false)
  | nEdge level =>
    obtain rfl := Host.Outcome.next.inj h
    exact .pushed level (bitPushed_pushBit s.beginSample level rfl) (State.pushBit_out_frame _ level)
  | qIdle | qRiseDc | qRiseSc | mHold | sRise | sSilence | sGuard | sHold | fHold | iWait | iSample | nTimeout | nWait
  | tWait | tSample =>
    obtain rfl := Host.Outcome.next.inj h
    exact .kept rfl rfl rfl rfl

/-- Presenting the pins leaves the Frame Assembler as it is. -/
theorem AssemblerEffect.of_present {s u : State} (h : AssemblerEffect s.present u) : AssemblerEffect s u := by
  cases h with
  | kept hout hacc hcount hbytes => exact .kept hout (by simpa using hacc) (by simpa using hcount) (by simpa using hbytes)
  | pushed b hpush hframe => exact .pushed b (by simpa [BitPushed] using hpush) hframe
  | cleared hbit hbyte hacc hcount hbytes => exact .cleared hbit hbyte hacc hcount hbytes

/-- Every clock edge, with a sample, a reset or neither, has one of the three effects. -/
theorem step_assemblerEffect {s u : State} (h : step s = .next u) : AssemblerEffect s u := by
  obtain ⟨-, rfl⟩ | ⟨-, i, -, hi⟩ := step_cases h
  · exact .kept s.present_out s.present_bitacc s.present_bitcount s.present_bytes
  · exact (exec_assemblerEffect hi).of_present

/-- No effect gives both a bit and a frame. -/
theorem AssemblerEffect.bit_eq_none_of_frame {s u : State} (h : AssemblerEffect s u) (hf : u.out.frame ≠ none) :
    u.out.bit = none := by
  cases h with
  | kept hout => simp [hout, Out.none]
  | pushed b hpush hframe => exact absurd hframe hf
  | cleared hbit => exact hbit

/-- A byte is reported only with the bit that completes it. -/
theorem AssemblerEffect.bit_ne_none_of_byte {s u : State} (h : AssemblerEffect s u) (hb : u.out.byte ≠ none) :
    u.out.bit ≠ none := by
  cases h with
  | kept hout => simp [hout, Out.none] at hb
  | pushed b hpush =>
    obtain ⟨hbit, -, -⟩ := hpush
    simp [hbit]
  | cleared hbit hbyte => exact absurd hbyte hb

/-- A step pushes at most one bit. -/
theorem AssemblerEffect.bitsPushed_le {s u : State} (h : AssemblerEffect s u) : bitsPushed u ≤ bitsPushed s + 1 := by
  cases h with
  | kept hout hacc hcount hbytes => simp [bitsPushed, hcount, hbytes]
  | cleared hbit hbyte hacc hcount hbytes => simp [bitsPushed, hcount, hbytes]
  | pushed b hpush =>
    obtain ⟨-, completes, accumulates⟩ := hpush
    by_cases full : s.bitcount = 7
    · obtain ⟨-, hcount, hbytes, -⟩ := completes full
      simp only [bitsPushed, full, hcount, hbytes, List.length_append, List.length_singleton, BitVec.reduceToNat]
      omega
    · obtain ⟨-, hcount, hbytes, -⟩ := accumulates full
      simp only [bitsPushed, hcount, hbytes]
      omega

/-- A step completes at most one byte: one bit more cannot make two. -/
theorem AssemblerEffect.bytes_length_le {s u : State} (h : AssemblerEffect s u) :
    u.bytes.length ≤ s.bytes.length + 1 := by
  have bits : 8 * u.bytes.length + u.bitcount.toNat ≤ 8 * s.bytes.length + s.bitcount.toNat + 1 := h.bitsPushed_le
  have held : s.bitcount.toNat < 8 := s.bitcount.isLt
  omega

/-! ## The sample index under one step -/

/-- An operation counts one sample, or puts the index back to 0 (rules R90, R91, R93, R94, R147). -/
theorem exec_sampleIndex {i : Instr} {s u : State} (h : exec i s = .next u) :
    u.sampleIndex = s.sampleIndex + 1 ∨ u.sampleIndex = 0 := by
  cases i with
  | reset | qRiseDc | qRiseSc | aEmitDc | aDropDc | aEmitSc | aDropSc =>
    obtain rfl := Host.Outcome.next.inj h
    exact .inr rfl
  | mFallCal | mFallLong | mFallShort | fFall | nEdge =>
    obtain rfl := Host.Outcome.next.inj h
    exact .inl (State.pushBit_sampleIndex _ _)
  | qIdle | mHold | sRise | sSilence | sGuard | sHold | fHold | iWait | iSample | nTimeout | nWait | tWait | tSample =>
    obtain rfl := Host.Outcome.next.inj h
    exact .inl rfl

/-- A clock edge counts at most one sample. -/
theorem step_sampleIndex_le {s u : State} (h : step s = .next u) : u.sampleIndex ≤ s.sampleIndex + 1 := by
  obtain ⟨-, rfl⟩ | ⟨-, i, -, hi⟩ := step_cases h
  · simp
  · obtain hcounted | hzero := exec_sampleIndex hi
    · simp [hcounted]
    · simp [hzero]

/-! ## Runs -/

/-- A run of at least one step, taken apart at its first. -/
theorem exists_step_of_run_succ {n : Nat} {s t : State} (h : run (n + 1) s = .next t) :
    ∃ u, step s = .next u ∧ run n u = .next t := by
  cases hs : step s with
  | next u => exact ⟨u, rfl, run_succ hs n ▸ h⟩
  | fault r => simp [run, hs] at h
  | refused r => simp [run, hs] at h

/-- A quantity that each step raises by at most one is raised by a run by at most its length. -/
theorem run_measure_le {f : State → Nat} (hf : ∀ {s u}, step s = .next u → f u ≤ f s + 1) {n : Nat} {s t : State}
    (h : run n s = .next t) : f t ≤ f s + n := by
  induction n generalizing s with
  | zero =>
    obtain rfl := Host.Outcome.next.inj h
    exact Nat.le_refl _
  | succ n ih =>
    obtain ⟨u, hu, ht⟩ := exists_step_of_run_succ h
    have first : f u ≤ f s + 1 := hf hu
    have others : f t ≤ f u + n := ih ht
    omega

/-! ## The statements -/

/-- Settles O48: three of its parts are about the Frame Assembler's three effects, the last about the sample index. -/
theorem outputsOfOneStep : Obligations.OutputsOfOneStep := by
  intro s t h
  have effect := step_assemblerEffect h
  exact ⟨effect.bit_eq_none_of_frame, effect.bit_ne_none_of_byte, effect.bytes_length_le, step_sampleIndex_le h⟩

/-- Settles O40: after a hard reset no sample is counted and no bit pushed, and each step adds at most one of each. -/
theorem shortRunsStayWithinLimits : Obligations.ShortRunsStayWithinLimits := by
  intro l v ps n t hidx hcap h
  have samplesCounted : t.sampleIndex ≤ 0 + n := run_measure_le (f := State.sampleIndex) step_sampleIndex_le h
  have bits : 8 * t.bytes.length + t.bitcount.toNat ≤ 0 + n :=
    run_measure_le (f := bitsPushed) (fun hs => (step_assemblerEffect hs).bitsPushed_le) h
  exact ⟨fun _ => by omega, by omega⟩

end Sys2Proof.Safety
end

section
/-! PROOFS. What one clock edge can do to the state record, said once: the operations grouped by their effect. -/

namespace Sys2Proof.Safety

open Sys2Proof.Machine

/-! ## The five pushing operations have one form -/

/-- The state after a sample that records a change, pushes the bit `b` and goes to `target` with the tick `tick`: the form
that the five pushing operations share (rules R101 to R103, R121, R125). -/
def afterEdge (s : State) (tick : Nat) (b : Bool) (target : DecoderState) : State :=
  (((s.beginSample.setTicklength tick).pushBit b).setLastchange s.idx).goto target

/-- `PushBit` reads and writes the Frame Assembler alone, so it may come before or after the other write of `F_FALL`. -/
theorem pushBit_setLastchange (s : State) (n : Nat) (b : Bool) :
    (s.setLastchange n).pushBit b = (s.pushBit b).setLastchange n := by
  by_cases full : s.bitcount.toNat = 7
  · rw [s.pushBit_completes b full, (s.setLastchange n).pushBit_completes b full]
    rfl
  · rw [s.pushBit_accumulates b full, (s.setLastchange n).pushBit_accumulates b full]
    rfl

theorem exec_fFall_eq_afterEdge (s : State) : exec .fFall s = .next (afterEdge s s.elapsed true .inmessage) :=
  congrArg (fun u : State => Host.Outcome.next (u.goto .inmessage))
    (pushBit_setLastchange (s.beginSample.setTicklength s.elapsed) s.idx true)

@[simp] theorem afterEdge_ticklength (s : State) (tick : Nat) (b : Bool) (target : DecoderState) :
    (afterEdge s tick b target).ticklength = tick := by
  simp [afterEdge]

@[simp] theorem afterEdge_variant (s : State) (tick : Nat) (b : Bool) (target : DecoderState) :
    (afterEdge s tick b target).variant = s.variant := by
  simp [afterEdge]

theorem edgeEffect_afterEdge (s : State) (tick : Nat) (b : Bool) (target : DecoderState) :
    EdgeEffect b target s (afterEdge s tick b target) := by
  refine ⟨rfl, ?_, rfl, bitPushed_pushBit (s.beginSample.setTicklength tick) b rfl, ?_, ?_, ?_, ?_, ?_⟩ <;>
    simp [afterEdge, Out.none]

theorem EdgeEffect.bitPushed {b : Bool} {target : DecoderState} {s t : State} (h : EdgeEffect b target s t) :
    BitPushed b s t := by
  obtain ⟨-, -, -, push, -⟩ := h
  exact push

/-! ## The effects of a clock edge -/

/-- What a clock edge makes of the state `s` with its pins presented, with the conditions that matter for the record: the
25 operations and the cycle without a sample, grouped by their effect. -/
inductive StepEffect (s u : State) : Prop
  /-- No sample (rule R95). -/
  | idle (ha : s.active = false) (h : u = s)
  /-- `RESET`. -/
  | hardReset (hr : s.pins.rst = true) (h : u = s.hardReset)
  /-- The eight waiting operations. -/
  | waits (hr : s.pins.rst = false) (h : u = s.beginSample)
  /-- `Q_RISE_DC` and `Q_RISE_SC`. -/
  | begins (target : DecoderState) (hr : s.pins.rst = false) (hs : s.state = .quiet)
      (hfirst : s.variant = .dc ∧ target = .mark ∨ s.variant = .sc ∧ target = .firstmark)
      (h : u = (s.beginSample.goto target).setSampleIndex 0)
  /-- `M_FALL_CAL`. -/
  | calibratesDc (hr : s.pins.rst = false) (hv : s.variant = .dc) (hs : s.state = .mark) (hl : s.pins.level = false)
      (hk : s.ticklength = 0) (h : u = afterEdge s s.elapsed false .space)
  /-- `F_FALL`. -/
  | calibratesSc (hr : s.pins.rst = false) (hv : s.variant = .sc) (hs : s.state = .firstmark)
      (hl : s.pins.level = false) (h : u = afterEdge s s.elapsed true .inmessage)
  /-- `M_FALL_LONG` and `M_FALL_SHORT`. -/
  | decidesDc (b : Bool) (hr : s.pins.rst = false) (hv : s.variant = .dc) (hs : s.state = .mark)
      (hk : s.ticklength ≠ 0) (h : u = afterEdge s s.ticklength b .space)
  /-- `N_EDGE`. -/
  | decidesSc (b : Bool) (hr : s.pins.rst = false) (hv : s.variant = .sc) (hs : s.state = .needchange)
      (h : u = afterEdge s s.ticklength b .tickwait)
  /-- `S_RISE`. -/
  | rises (hr : s.pins.rst = false) (hv : s.variant = .dc) (hs : s.state = .space)
      (h : u = (s.beginSample.setLastchange s.idx).goto .mark)
  /-- `S_SILENCE` and `N_TIMEOUT`. -/
  | timesOut (hr : s.pins.rst = false)
      (hat : s.variant = .dc ∧ s.state = .space ∨ s.variant = .sc ∧ s.state = .needchange)
      (h : u = s.beginSample.enterAbort)
  /-- `I_SAMPLE` and `T_SAMPLE`. -/
  | samplesLevel (l : Bool) (hr : s.pins.rst = false) (hv : s.variant = .sc)
      (hs : s.state = .inmessage ∨ s.state = .tickwait)
      (h : u = (s.beginSample.setLastlevel l).goto .needchange)
  /-- The four handlers of `ABORT`. -/
  | returns (frame : Option Memory) (hr : s.pins.rst = false) (hs : s.state = .abort)
      (h : u = { s.resetAll with out := ⟨none, none, frame⟩ })

/-- Every operation, where it is chosen, has the effect of its group. -/
theorem stepEffect_of_chosen {s u : State} {i : Instr} (hi : Chosen s i) (h : exec i s = .next u) : StepEffect s u := by
  have hu {v : State} (hv : exec i s = .next v) : u = v := Host.Outcome.next.inj (h.symm.trans hv)
  cases hi with
  | reset hr => exact .hardReset hr (hu rfl)
  | qIdle hr | mHold hr | sGuard hr | sHold hr | fHold hr | iWait hr | nWait hr | tWait hr => exact .waits hr (hu rfl)
  | qRiseDc hr hv hs => exact .begins .mark hr hs (.inl ⟨hv, rfl⟩) (hu rfl)
  | qRiseSc hr hv hs => exact .begins .firstmark hr hs (.inr ⟨hv, rfl⟩) (hu rfl)
  | mFallCal hr hv hs hl hk => exact .calibratesDc hr hv hs hl hk (hu rfl)
  | fFall hr hv hs hl => exact .calibratesSc hr hv hs hl (hu (exec_fFall_eq_afterEdge s))
  | mFallLong hr hv hs _ hk => exact .decidesDc true hr hv hs hk (hu rfl)
  | mFallShort hr hv hs _ hk => exact .decidesDc false hr hv hs hk (hu rfl)
  | nEdge hr hv hs => exact .decidesSc s.pins.level hr hv hs (hu rfl)
  | sRise hr hv hs => exact .rises hr hv hs (hu rfl)
  | sSilence hr hv hs => exact .timesOut hr (.inl ⟨hv, hs⟩) (hu rfl)
  | nTimeout hr hv hs => exact .timesOut hr (.inr ⟨hv, hs⟩) (hu rfl)
  | iSample hr hv hs => exact .samplesLevel s.pins.level hr hv (.inl hs) (hu rfl)
  | tSample hr hv hs => exact .samplesLevel s.pins.level hr hv (.inr hs) (hu rfl)
  | aEmitDc hr _ hs | aEmitSc hr _ hs => exact .returns (some s.bytes) hr hs (hu rfl)
  | aDropDc hr _ hs | aDropSc hr _ hs => exact .returns none hr hs (hu rfl)

theorem step_stepEffect {s u : State} (h : step s = .next u) : StepEffect s.present u := by
  obtain ⟨ha, rfl⟩ | ⟨-, i, hi, hu⟩ := step_cases h
  · exact .idle ha rfl
  · exact stepEffect_of_chosen hi hu

end Sys2Proof.Safety
end

section
/-! PROOFS. The invariants of rule R35: what they say in each Decoder State, and that every clock edge keeps them. -/

namespace Sys2Proof.Safety

open Sys2Proof.Machine

/-! ## The invariants of the Frame Assembler under a pushed bit -/

theorem bitcount_eq_seven_iff (n : BitVec 3) : n = 7 ↔ n.toNat = 7 := by
  bv_omega

theorem BitPushed.i7 {b : Bool} {s t : State} (h : BitPushed b s t) (hs : I7 s) : I7 t := by
  obtain ⟨-, completes, accumulates⟩ := h
  obtain ⟨hcount, hacc⟩ := hs
  by_cases full : s.bitcount = 7
  · obtain ⟨acc, count, -⟩ := completes full
    simp [I7, acc, count]
  · obtain ⟨acc, count, -⟩ := accumulates full
    have room : s.bitcount.toNat ≠ 7 := fun seven => full ((bitcount_eq_seven_iff _).mpr seven)
    have bit := b.toNat_le
    refine ⟨by omega, ?_⟩
    rw [acc, count, Nat.pow_succ]
    omega

theorem BitPushed.bitsPushed_eq {b : Bool} {s t : State} (h : BitPushed b s t) : bitsPushed t = bitsPushed s + 1 := by
  obtain ⟨-, completes, accumulates⟩ := h
  by_cases full : s.bitcount = 7
  · obtain ⟨-, count, bytes, -⟩ := completes full
    simp only [bitsPushed, full, count, bytes, List.length_append, List.length_singleton, BitVec.reduceToNat]
    omega
  · obtain ⟨-, count, bytes, -⟩ := accumulates full
    simp only [bitsPushed, count, bytes]
    omega

/-- The first bit of the Message is 1: the oldest bit held in the accumulator while no byte is complete, the top bit of the
first byte after that (I9 with what it rests on). -/
def FirstBitIsOne (s : State) : Prop :=
  (s.bytes = [] → 1 ≤ s.bitcount.toNat ∧ 2 ^ (s.bitcount.toNat - 1) ≤ s.bitacc.toNat) ∧
  ∀ b ∈ s.bytes.head?, 0x80 ≤ b.toNat

/-- A first bit 1 stays, and is the top bit of the first byte when that completes. -/
theorem BitPushed.firstBitIsOne {b : Bool} {s t : State} (h : BitPushed b s t) (h7 : I7 s) (hs : FirstBitIsOne s) :
    FirstBitIsOne t := by
  obtain ⟨-, completes, accumulates⟩ := h
  obtain ⟨hcount, hacc⟩ := h7
  obtain ⟨held, first⟩ := hs
  have bit := b.toNat_le
  by_cases full : s.bitcount = 7
  · obtain ⟨-, -, bytes, -⟩ := completes full
    refine ⟨by simp [bytes], ?_⟩
    cases hb : s.bytes with
    | nil =>
      obtain ⟨-, high⟩ := held hb
      simp only [full, BitVec.reduceToNat] at high hacc
      have top : 0x80 ≤ (2 * s.bitacc.toNat + b.toNat) % 2 ^ 8 := by omega
      simpa [bytes, hb] using top
    | cons c cs => simpa [bytes, hb] using first
  · obtain ⟨acc, count, bytes, -⟩ := accumulates full
    have room : s.bitcount.toNat ≠ 7 := fun seven => full ((bitcount_eq_seven_iff _).mpr seven)
    refine ⟨fun hb => ?_, by simpa [bytes] using first⟩
    obtain ⟨some, high⟩ := held (bytes ▸ hb)
    have small : 2 ^ s.bitcount.toNat ≤ 2 ^ 6 := Nat.pow_le_pow_right (by omega) (by omega)
    have double : 2 ^ s.bitcount.toNat = 2 * 2 ^ (s.bitcount.toNat - 1) := by
      rw [mul_comm, ← Nat.pow_succ, Nat.succ_eq_add_one, Nat.sub_add_cancel some]
    rw [acc, count, Nat.add_sub_cancel]
    omega

/-- A Message that begins with 1. -/
theorem BitPushed.firstBitIsOne_of_empty {s t : State} (h : BitPushed true s t) (hacc : s.bitacc.toNat = 0)
    (hcount : s.bitcount = 0) (hbytes : s.bytes = []) : FirstBitIsOne t := by
  obtain ⟨-, -, accumulates⟩ := h
  obtain ⟨acc, count, bytes, -⟩ := accumulates (by simp [hcount])
  simp [FirstBitIsOne, acc, count, bytes, hacc, hcount, hbytes]

/-! ## What the invariants say in each Decoder State -/

theorem Invariants.i1 {s : State} (h : Invariants s) : I1 s := by
  obtain ⟨i1, -⟩ := h
  exact i1

theorem Invariants.i7 {s : State} (h : Invariants s) : I7 s := by
  obtain ⟨-, -, -, -, -, -, i7, -⟩ := h
  exact i7

theorem invariants_quiet_iff {s : State} (hs : s.state = .quiet) :
    Invariants s ↔ s.lastchange = 0 ∧ s.ticklength = 0 ∧ s.lastlevel = false ∧ s.bitacc = 0 ∧ s.bitcount = 0 ∧
      s.bytes = [] := by
  refine ⟨fun ⟨_, i2, _⟩ => i2 hs, fun ⟨lastchange, ticklength, lastlevel, bitacc, bitcount, bytes⟩ => ?_⟩
  simp [Invariants, I1, I2, I3, I4, I5, I6, I7, I9, lastlevelLow, hs, lastchange, ticklength, lastlevel, bitacc, bitcount,
    bytes]

theorem invariants_mark_iff {s : State} (hv : s.variant = .dc) (hs : s.state = .mark) :
    Invariants s ↔ I1 s ∧ (s.ticklength = 0 ↔ bitsPushed s = 0) ∧ I7 s ∧ s.lastlevel = false ∧
      (s.ticklength = 0 → s.lastchange = 0) := by
  simp [Invariants, I1, I2, I3, I4, I5, I6, I7, I9, originKept, hv, hs, and_assoc]

theorem invariants_space_iff {s : State} (hv : s.variant = .dc) (hs : s.state = .space) :
    Invariants s ↔ I1 s ∧ 1 ≤ s.ticklength ∧ I7 s ∧ s.lastlevel = false ∧ 1 ≤ bitsPushed s := by
  simp [Invariants, I1, I2, I3, I4, I5, I6, I7, I9, hv, hs, and_assoc]

theorem invariants_abort_dc_iff {s : State} (hv : s.variant = .dc) (hs : s.state = .abort) :
    Invariants s ↔ I1 s ∧ 1 ≤ s.ticklength ∧ I7 s ∧ s.lastlevel = false := by
  simp [Invariants, I1, I2, I3, I4, I5, I6, I7, I9, hv, hs, and_assoc]

theorem invariants_firstmark_iff {s : State} (hv : s.variant = .sc) (hs : s.state = .firstmark) :
    Invariants s ↔ I1 s ∧ (s.ticklength = 0 ∧ s.bitcount = 0 ∧ s.bytes = []) ∧ I7 s ∧ s.lastchange = 0 := by
  constructor
  · intro ⟨i1, _, _, _, i5, _, i7, _, _, origin, _⟩
    exact ⟨i1, i5 hs, i7, origin (.inl hs)⟩
  · rintro ⟨i1, ⟨ticklength, bitcount, bytes⟩, i7, lastchange⟩
    simpa [Invariants, I2, I3, I4, I5, I6, I9, hv, hs, ticklength, bitcount, bytes, lastchange] using i7

theorem invariants_sc_iff {s : State} (hv : s.variant = .sc)
    (hs : s.state ∈ [DecoderState.inmessage, .needchange, .tickwait, .abort]) :
    Invariants s ↔ I1 s ∧ 1 ≤ s.ticklength ∧ I7 s ∧ FirstBitIsOne s := by
  have states : s.state = .inmessage ∨ s.state = .needchange ∨ s.state = .tickwait ∨ s.state = .abort := by
    simpa using hs
  constructor
  · intro ⟨i1, _, _, i4, _, _, i7, i9, _, _, high, _⟩
    have timing : s.state ∈ [DecoderState.space, .abort, .inmessage, .needchange, .tickwait] := by
      obtain hs | hs | hs | hs := states <;> simp [hs]
    exact ⟨i1, i4 timing, i7, high hs hv, i9 hv⟩
  · rintro ⟨i1, tick, i7, high, first⟩
    obtain hs | hs | hs | hs := states <;>
      exact ⟨i1, by simp [I2, hs], by simp [I3, hv, hs], fun _ => tick, by simp [I5, hs], by simp [I6, hs], i7,
        fun _ => first, by simp [hv], by simp [hs], fun _ _ => high, by simp [hs]⟩

/-- The invariants are about the record alone, not about the pins. -/
theorem invariants_present_iff (s : State) : Invariants s.present ↔ Invariants s := by
  simp [Invariants, I1, I2, I3, I4, I5, I6, I7, I9, lastlevelLow, originKept, firstBitHigh, spaceAfterBit, bitsPushed]

/-- The record of a reset has the invariants, whatever the variant. -/
theorem invariants_of_reset {s : State} {v : Variant} (h : SameRecord s (State.resetWith v)) : Invariants s := by
  obtain ⟨-, state, -, lastchange, ticklength, lastlevel, bitacc, bitcount, bytes⟩ := h
  exact (invariants_quiet_iff state).mpr ⟨lastchange, ticklength, lastlevel, bitacc, bitcount, bytes⟩

/-! ## Each effect keeps the invariants -/

theorem Invariants.beginSample {s : State} (h : Invariants s) : Invariants s.beginSample := by
  obtain ⟨i1, others⟩ := h
  exact ⟨Nat.le_succ_of_le i1, others⟩

theorem Invariants.begins {s : State} (h : Invariants s) (hs : s.state = .quiet) {target : DecoderState}
    (hfirst : s.variant = .dc ∧ target = .mark ∨ s.variant = .sc ∧ target = .firstmark) :
    Invariants ((s.beginSample.goto target).setSampleIndex 0) := by
  obtain ⟨lastchange, ticklength, lastlevel, bitacc, bitcount, bytes⟩ := (invariants_quiet_iff hs).mp h
  obtain ⟨hv, rfl⟩ | ⟨hv, rfl⟩ := hfirst
  · refine Iff.mpr (invariants_mark_iff hv rfl) ?_
    simp [I7, lastchange, ticklength, lastlevel, bitacc, bitcount, bytes]
  · refine Iff.mpr (invariants_firstmark_iff hv rfl) ?_
    simp [I7, lastchange, ticklength, bitacc, bitcount, bytes]

theorem EdgeEffect.i1 {b : Bool} {target : DecoderState} {s t : State} (h : EdgeEffect b target s t) : I1 t := by
  obtain ⟨-, sampleIndex, lastchange, -⟩ := h
  exact (lastchange.trans sampleIndex.symm).le

theorem Invariants.edgeDc {s t : State} {b : Bool} (h : Invariants s) (hv : s.variant = .dc)
    (ht : EdgeEffect b .space s t) (hk : 1 ≤ t.ticklength) : Invariants t := by
  obtain ⟨-, -, -, -, -, -, i7, -, low, -⟩ := h
  have i1 := EdgeEffect.i1 ht
  obtain ⟨state, -, -, push, -, variant, lastlevel, -, -⟩ := ht
  have pushed : bitsPushed t = bitsPushed s + 1 := BitPushed.bitsPushed_eq push
  exact (invariants_space_iff (variant.trans hv) state).mpr
    ⟨i1, hk, BitPushed.i7 push i7, lastlevel.trans (low hv), pushed ▸ Nat.le_add_left 1 _⟩

theorem Invariants.edgeSc {s t : State} {b : Bool} {target : DecoderState} (h : Invariants s) (hv : s.variant = .sc)
    (ht : EdgeEffect b target s t) (htarget : target ∈ [DecoderState.inmessage, .needchange, .tickwait, .abort])
    (hk : 1 ≤ t.ticklength) (hone : FirstBitIsOne t) : Invariants t := by
  have i1 := EdgeEffect.i1 ht
  obtain ⟨rfl, -, -, push, -, variant, -⟩ := ht
  exact (invariants_sc_iff (variant.trans hv) htarget).mpr ⟨i1, hk, BitPushed.i7 push h.i7, hone⟩

theorem Invariants.rises {s : State} (h : Invariants s) (hv : s.variant = .dc) (hs : s.state = .space) :
    Invariants ((s.beginSample.setLastchange s.idx).goto .mark) := by
  obtain ⟨-, tick, i7, low, pushed⟩ := (invariants_space_iff hv hs).mp h
  have known : s.ticklength ≠ 0 := Nat.ne_of_gt tick
  have some : bitsPushed s ≠ 0 := Nat.ne_of_gt pushed
  exact Iff.mpr (invariants_mark_iff hv rfl)
    ⟨Nat.le_refl _, iff_of_false known some, i7, low, fun unknown => absurd unknown known⟩

theorem Invariants.timesOut {s : State} (h : Invariants s)
    (hat : s.variant = .dc ∧ s.state = .space ∨ s.variant = .sc ∧ s.state = .needchange) :
    Invariants s.beginSample.enterAbort := by
  obtain ⟨hv, hs⟩ | ⟨hv, hs⟩ := hat
  · obtain ⟨i1, tick, i7, low, -⟩ := (invariants_space_iff hv hs).mp h
    exact Iff.mpr (invariants_abort_dc_iff hv rfl) ⟨Nat.le_succ_of_le i1, tick, i7, low⟩
  · obtain ⟨i1, tick, i7, one⟩ := (invariants_sc_iff hv (by simp [hs])).mp h
    exact Iff.mpr (invariants_sc_iff hv (by simp)) ⟨Nat.le_succ_of_le i1, tick, i7, one⟩

theorem Invariants.samplesLevel {s : State} (h : Invariants s) (l : Bool) (hv : s.variant = .sc)
    (hs : s.state = .inmessage ∨ s.state = .tickwait) :
    Invariants ((s.beginSample.setLastlevel l).goto .needchange) := by
  have before : s.state ∈ [DecoderState.inmessage, .needchange, .tickwait, .abort] := by
    obtain hs | hs := hs <;> simp [hs]
  obtain ⟨i1, tick, i7, one⟩ := (invariants_sc_iff hv before).mp h
  exact Iff.mpr (invariants_sc_iff hv (by simp)) ⟨Nat.le_succ_of_le i1, tick, i7, one⟩

/-- Every effect keeps the invariants. A calibrated tick is at least 1 because `d` is (I1), and a self-clocking Message begins
with the bit 1 of `F_FALL`, pushed on an empty Frame Assembler (I5, I7). -/
theorem StepEffect.invariants {s u : State} (effect : StepEffect s u) (hs : Invariants s) : Invariants u := by
  cases effect with
  | idle ha h => exact h ▸ hs
  | hardReset hr h =>
    exact invariants_of_reset (v := s.pins.cfgVariant) (h ▸ ⟨rfl, rfl, rfl, rfl, rfl, rfl, rfl, rfl, rfl⟩)
  | returns frame hr hst h =>
    exact invariants_of_reset (v := s.variant) (h ▸ ⟨rfl, rfl, rfl, rfl, rfl, rfl, rfl, rfl, rfl⟩)
  | waits hr h => exact h ▸ hs.beginSample
  | begins target hr hst hfirst h => exact h ▸ hs.begins hst hfirst
  | rises hr hv hst h => exact h ▸ hs.rises hv hst
  | timesOut hr hat h => exact h ▸ hs.timesOut hat
  | samplesLevel l hr hv hst h => exact h ▸ hs.samplesLevel l hv hst
  | calibratesDc hr hv hst hl hk h =>
    subst h
    exact hs.edgeDc hv (edgeEffect_afterEdge s _ _ _) (by simpa using s.elapsed_pos hs.i1)
  | decidesDc b hr hv hst hk h =>
    subst h
    exact hs.edgeDc hv (edgeEffect_afterEdge s _ _ _) (by simpa [Nat.one_le_iff_ne_zero] using hk)
  | calibratesSc hr hv hst hl h =>
    subst h
    obtain ⟨-, ⟨-, count, bytes⟩, ⟨-, acc⟩, -⟩ := (invariants_firstmark_iff hv hst).mp hs
    have effect := edgeEffect_afterEdge s s.elapsed true .inmessage
    have one := BitPushed.firstBitIsOne_of_empty (EdgeEffect.bitPushed effect) (by simpa [count] using acc) count bytes
    exact hs.edgeSc hv effect (by simp) (by simpa using s.elapsed_pos hs.i1) one
  | decidesSc b hr hv hst h =>
    subst h
    obtain ⟨-, tick, i7, one⟩ := (invariants_sc_iff hv (by simp [hst])).mp hs
    have effect := edgeEffect_afterEdge s s.ticklength b .tickwait
    exact hs.edgeSc hv effect (by simp) (by simpa using tick)
      (BitPushed.firstBitIsOne (EdgeEffect.bitPushed effect) i7 one)

/-! ## The statements -/

/-- Settles O36, by the effect that the clock edge has. -/
theorem invariantsKeptByEveryStep : Obligations.InvariantsKeptByEveryStep :=
  fun s _ hs h => (step_stepEffect h).invariants ((invariants_present_iff s).mpr hs)

/-- Settles O35: the fields are those of `State.resetWith`, and in `QUIET` no timer runs. -/
theorem resetStateMeetsInvariants : Obligations.ResetStateMeetsInvariants := by
  intro v
  refine ⟨rfl, rfl, rfl, rfl, rfl, rfl, rfl, rfl, rfl, ?_, ?_⟩
  · exact invariants_of_reset (v := v) ⟨rfl, rfl, rfl, rfl, rfl, rfl, rfl, rfl, rfl⟩
  · exact ⟨nofun, nofun, nofun, nofun, nofun, nofun⟩

end Sys2Proof.Safety
end

section
/-! PROOFS. The bits of a Message as bytes (rules R53, R55), and that the Frame Assembler holds them (I10). -/

namespace Sys2Proof.Safety

open Sys2Proof.Machine

/-! ## Bits packed into bytes -/

/-- A list is of less than eight bits, or begins with the eight bits of a byte. -/
theorem length_lt_or_exists_octet (bs : List Bool) : bs.length < 8 ∨
    ∃ b0 b1 b2 b3 b4 b5 b6 b7 rest, bs = b0 :: b1 :: b2 :: b3 :: b4 :: b5 :: b6 :: b7 :: rest := by
  match bs with
  | b0 :: b1 :: b2 :: b3 :: b4 :: b5 :: b6 :: b7 :: rest => exact .inr ⟨b0, b1, b2, b3, b4, b5, b6, b7, rest, rfl⟩
  | [] | [_] | [_, _] | [_, _, _] | [_, _, _, _] | [_, _, _, _, _] | [_, _, _, _, _, _] | [_, _, _, _, _, _, _] =>
    exact .inl (by simp)

theorem packBytes_of_length_lt {bs : List Bool} (h : bs.length < 8) : packBytes bs = [] := by
  unfold packBytes
  split
  · simp only [List.length_cons] at h
    omega
  · rfl

theorem bitsValue_concat (bs : List Bool) (b : Bool) : bitsValue (bs ++ [b]) = 2 * bitsValue bs + b.toNat := by
  simp [bitsValue]

/-- The byte that `PushBit` shifts together is the byte of rule R53. -/
theorem packBytes_of_length_eq {bs : List Bool} (h : bs.length = 8) : packBytes bs = [BitVec.ofNat 8 (bitsValue bs)] := by
  obtain short | ⟨b0, b1, b2, b3, b4, b5, b6, b7, rest, rfl⟩ := length_lt_or_exists_octet bs
  · omega
  · obtain rfl : rest = [] := by simpa using h
    simp only [packBytes, byteOfBits, bitsValue, List.foldl_cons, List.foldl_nil]
    congr 2
    omega

/-- Whole bytes are packed by themselves. -/
theorem packBytes_append (bs cs : List Bool) (h : bs.length % 8 = 0) :
    packBytes (bs ++ cs) = packBytes bs ++ packBytes cs := by
  obtain short | ⟨b0, b1, b2, b3, b4, b5, b6, b7, rest, rfl⟩ := length_lt_or_exists_octet bs
  · obtain rfl : bs = [] := List.eq_nil_of_length_eq_zero (by omega)
    rfl
  · simp only [List.length_cons] at h
    simp only [List.cons_append, packBytes]
    rw [packBytes_append rest cs (by omega)]
termination_by bs.length

/-- The bits of the complete bytes: what `leftoverBits` leaves out. -/
def packedBits (bs : List Bool) : List Bool :=
  bs.take (8 * (bs.length / 8))

theorem packedBits_append_leftoverBits (bs : List Bool) : packedBits bs ++ leftoverBits bs = bs :=
  List.take_append_drop _ bs

theorem length_packedBits (bs : List Bool) : (packedBits bs).length = 8 * (bs.length / 8) :=
  List.length_take_of_le (Nat.mul_div_le _ 8)

theorem length_leftoverBits (bs : List Bool) : (leftoverBits bs).length = bs.length % 8 := by
  simp only [leftoverBits, List.length_drop]
  omega

/-- Only the bits left over take part in the byte that one more bit may complete. -/
theorem packBytes_concat (bs : List Bool) (b : Bool) :
    packBytes (bs ++ [b]) = packBytes bs ++ packBytes (leftoverBits bs ++ [b]) := by
  have whole : (packedBits bs).length % 8 = 0 := by simp [length_packedBits]
  have none : packBytes (leftoverBits bs) = [] :=
    packBytes_of_length_lt (length_leftoverBits bs ▸ Nat.mod_lt _ (by decide))
  have packed : packBytes (packedBits bs) = packBytes bs := by
    rw [← List.append_nil (packBytes (packedBits bs)), ← none, ← packBytes_append _ _ whole,
      packedBits_append_leftoverBits]
  calc packBytes (bs ++ [b])
      = packBytes (packedBits bs ++ (leftoverBits bs ++ [b])) := by
        rw [← List.append_assoc, packedBits_append_leftoverBits]
    _ = packBytes (packedBits bs) ++ packBytes (leftoverBits bs ++ [b]) := packBytes_append _ _ whole
    _ = packBytes bs ++ packBytes (leftoverBits bs ++ [b]) := by rw [packed]

theorem leftoverBits_concat {bs : List Bool} (h : bs.length % 8 ≠ 7) (b : Bool) :
    leftoverBits (bs ++ [b]) = leftoverBits bs ++ [b] := by
  have same : (bs ++ [b]).length / 8 = bs.length / 8 := by
    simp only [List.length_append, List.length_singleton]
    omega
  rw [leftoverBits, same, List.drop_append_of_le_length (Nat.mul_div_le _ 8), leftoverBits]

theorem leftoverBits_of_whole {bs : List Bool} (h : bs.length % 8 = 0) : leftoverBits bs = [] :=
  List.eq_nil_of_length_eq_zero ((length_leftoverBits bs).trans h)

/-! ## The bits held -/

theorem holds_nil_iff (s : State) : Holds [] s ↔ s.bytes = [] ∧ s.bitcount.toNat = 0 ∧ s.bitacc.toNat = 0 := by
  simp [Holds, packBytes, leftoverBits, bitsValue]

/-- A pushed bit is held behind the others. -/
theorem Holds.concat {bs : List Bool} {b : Bool} {s t : State} (h : Holds bs s) (i7 : I7 s) (ht : BitPushed b s t) :
    Holds (bs ++ [b]) t := by
  obtain ⟨bytes, count, acc⟩ := h
  obtain ⟨hcount, hacc⟩ := i7
  obtain ⟨-, completes, accumulates⟩ := ht
  have value : bitsValue (leftoverBits bs ++ [b]) = 2 * s.bitacc.toNat + b.toNat := by rw [bitsValue_concat, acc]
  have left : (leftoverBits bs ++ [b]).length = s.bitcount.toNat + 1 := by simp [length_leftoverBits, count]
  have more : (bs ++ [b]).length = bs.length + 1 := List.length_append
  by_cases full : s.bitcount = 7
  · obtain ⟨acc', count', bytes', -⟩ := completes full
    have seven : s.bitcount.toNat = 7 := (bitcount_eq_seven_iff _).mp full
    have whole : (bs ++ [b]).length % 8 = 0 := by omega
    refine ⟨?_, by rw [count', whole]; rfl, by rw [acc', leftoverBits_of_whole whole]; rfl⟩
    rw [bytes', packBytes_concat, packBytes_of_length_eq (left.trans (by rw [seven])), value, bytes]
  · obtain ⟨acc', count', bytes', -⟩ := accumulates full
    have room : s.bitcount.toNat ≠ 7 := fun seven => full ((bitcount_eq_seven_iff _).mpr seven)
    have small : 2 ^ s.bitcount.toNat ≤ 2 ^ 6 := Nat.pow_le_pow_right (by omega) (by omega)
    have bit := b.toNat_le
    have short : (leftoverBits bs ++ [b]).length < 8 := by omega
    refine ⟨?_, by omega, ?_⟩
    · rw [bytes', packBytes_concat, packBytes_of_length_lt short, List.append_nil, bytes]
    · rw [acc', leftoverBits_concat (by omega), value]
      exact Nat.mod_eq_of_lt (by omega)

/-- A clock edge that does not end in `QUIET` keeps the bits held, and holds the bit it reports behind them. -/
theorem StepEffect.holds {bs : List Bool} {s u : State} (effect : StepEffect s u) (hout : s.out = Out.none)
    (hs : Holds bs s) (i7 : I7 s) (hu : u.state ≠ .quiet) : Holds (bs ++ u.out.bit.toList) u := by
  have unpushed : Holds (bs ++ []) s := (List.append_nil bs).symm ▸ hs
  have pushed (tick : Nat) (b : Bool) (target : DecoderState) :
      Holds (bs ++ (afterEdge s tick b target).out.bit.toList) (afterEdge s tick b target) := by
    have push := EdgeEffect.bitPushed (edgeEffect_afterEdge s tick b target)
    have held := Holds.concat hs i7 push
    obtain ⟨bit, -⟩ := push
    exact bit ▸ held
  cases effect with
  | idle ha h =>
    subst h
    exact hout ▸ unpushed
  | hardReset hr h | returns frame hr hst h => exact absurd (h ▸ rfl) hu
  | waits hr h | begins target hr hst hfirst h | rises hr hv hst h | timesOut hr hat h | samplesLevel l hr hv hst h =>
    subst h
    exact unpushed
  | calibratesDc hr hv hst hl hk h | calibratesSc hr hv hst hl h | decidesDc b hr hv hst hk h
  | decidesSc b hr hv hst h =>
    subst h
    exact pushed _ _ _

/-! ## The statement -/

/-- Settles O51: in `QUIET` the invariants, which the step keeps, leave nothing held; outside it the step's effect decides. -/
theorem bitsPackedMostSignificantFirst : Obligations.BitsPackedMostSignificantFirst := by
  intro s t bs hs held h
  split
  case isTrue hq =>
    obtain ⟨-, -, -, acc, count, bytes⟩ := (invariants_quiet_iff hq).mp (invariantsKeptByEveryStep s t hs h)
    exact (holds_nil_iff t).mpr ⟨bytes, by simp [count], by simp [acc]⟩
  case isFalse hq =>
    have presented : Holds bs s.present := by simpa [Holds] using held
    exact (step_stepEffect h).holds s.present_out presented ((invariants_present_iff s).mpr hs).i7 hq

end Sys2Proof.Safety
end

section
/-! PROOFS. The tick and the variant over one step; and what a step does not read: pins that nothing qualifies, the sample
index in `QUIET`, and everything outside the record. -/

namespace Sys2Proof.Safety

open Sys2Proof.Machine

/-! ## The tick and the variant under one step -/

/-- Rule R30 while the first pulse of a Message lasts: `d` is the number of its samples. -/
theorem elapsed_of_origin {s : State} (h : s.lastchange = 0) : s.elapsed = s.sampleIndex + 1 := by
  rw [s.elapsed_eq (by omega), h, Nat.sub_zero]

/-- The tick is kept, cleared with the Message, or taken from the first pulse. -/
theorem StepEffect.ticklength {s u : State} (effect : StepEffect s u) (hs : Invariants s) :
    u.ticklength = s.ticklength ∨ u.ticklength = 0 ∧ u.state = .quiet ∨
    s.ticklength = 0 ∧ s.pins.level = false ∧ u.ticklength = s.sampleIndex + 1 ∧
      (s.variant = .dc ∧ s.state = .mark ∧ u.state = .space ∨
        s.variant = .sc ∧ s.state = .firstmark ∧ u.state = .inmessage) := by
  cases effect with
  | idle ha h | waits hr h | begins target hr hst hfirst h | rises hr hv hst h | timesOut hr hat h
  | samplesLevel l hr hv hst h =>
    exact .inl (h ▸ rfl)
  | decidesDc b hr hv hst hk h | decidesSc b hr hv hst h => exact .inl (h ▸ afterEdge_ticklength s _ _ _)
  | hardReset hr h | returns frame hr hst h => exact .inr (.inl (h ▸ ⟨rfl, rfl⟩))
  | calibratesDc hr hv hst hl hk h =>
    obtain ⟨-, -, -, -, origin⟩ := (invariants_mark_iff hv hst).mp hs
    have tick := (afterEdge_ticklength s s.elapsed false .space).trans (elapsed_of_origin (origin hk))
    exact .inr (.inr ⟨hk, hl, h ▸ tick, .inl ⟨hv, hst, h ▸ rfl⟩⟩)
  | calibratesSc hr hv hst hl h =>
    obtain ⟨-, ⟨unknown, -, -⟩, -, origin⟩ := (invariants_firstmark_iff hv hst).mp hs
    have tick := (afterEdge_ticklength s s.elapsed true .inmessage).trans (elapsed_of_origin origin)
    exact .inr (.inr ⟨unknown, hl, h ▸ tick, .inr ⟨hv, hst, h ▸ rfl⟩⟩)

/-- Settles O42: each of the three things that can happen to the tick answers both clauses. -/
theorem calibrationOncePerMessage : Obligations.CalibrationOncePerMessage := by
  intro s t hs h
  have tick := (step_stepEffect h).ticklength ((invariants_present_iff s).mpr hs)
  simp only [State.present_ticklength, State.present_variant, State.present_state, State.present_sampleIndex] at tick
  obtain kept | cleared | ⟨unknown, calibrated⟩ := tick
  · exact ⟨fun _ => .inl kept, fun unknown known => absurd (kept.trans unknown) known⟩
  · exact ⟨fun _ => .inr cleared, fun _ known => absurd cleared.left known⟩
  · exact ⟨fun known => absurd unknown known, fun _ _ => calibrated⟩

theorem rst_eq_false_of_inactive {s : State} (h : s.active = false) : s.pins.rst = false :=
  (Bool.or_eq_false_iff.mp h).left

/-- The variant after a clock edge. -/
theorem StepEffect.variant {s u : State} (effect : StepEffect s u) :
    u.variant = if s.pins.rst then s.pins.cfgVariant else s.variant := by
  cases effect with
  | hardReset hr h =>
    rw [h, if_pos hr]
    rfl
  | idle ha h =>
    rw [h, rst_eq_false_of_inactive ha]
    rfl
  | waits hr h | begins target hr hst hfirst h | rises hr hv hst h | timesOut hr hat h | samplesLevel l hr hv hst h
  | returns frame hr hst h =>
    rw [h, hr]
    rfl
  | calibratesDc hr hv hst hl hk h | calibratesSc hr hv hst hl h | decidesDc b hr hv hst hk h
  | decidesSc b hr hv hst h =>
    rw [h, hr]
    exact afterEdge_variant s _ _ _

/-- Settles O43. -/
theorem variantOnlyFromHardReset : Obligations.VariantOnlyFromHardReset := by
  intro s t h
  have variant := (step_stepEffect h).variant
  exact ⟨fun hr => by simpa [hr] using variant, fun hr => by simpa [hr] using variant⟩

/-! ## Pins that are not read -/

/-- The state with other pins in its clock cycle. -/
def withPins (s : State) (q : Pins) : State :=
  { s with pins := q }

theorem pushBit_withPins (s : State) (q : Pins) (b : Bool) : (withPins s q).pushBit b = withPins (s.pushBit b) q := by
  by_cases full : s.bitcount.toNat = 7
  · rw [s.pushBit_completes b full, (withPins s q).pushBit_completes b full]
    rfl
  · rw [s.pushBit_accumulates b full, (withPins s q).pushBit_accumulates b full]
    rfl

theorem afterEdge_withPins (s : State) (q : Pins) (tick : Nat) (b : Bool) (target : DecoderState) :
    afterEdge (withPins s q) tick b target = withPins (afterEdge s tick b target) q :=
  congrArg (fun u : State => (u.setLastchange s.idx).goto target)
    (pushBit_withPins (s.beginSample.setTicklength tick) q b)

/-- The meaning of every operation but `RESET` reads no pin and passes them on. -/
theorem exec_withPins {i : Instr} {s u : State} (q : Pins) (hi : i ≠ .reset) (h : exec i s = .next u) :
    exec i (withPins s q) = .next (withPins u q) := by
  have hu {v : State} (hv : exec i s = .next v) : u = v := Host.Outcome.next.inj (h.symm.trans hv)
  cases i with
  | reset => exact absurd rfl hi
  | mFallCal | mFallLong | mFallShort | nEdge =>
    rw [hu rfl]
    exact congrArg Host.Outcome.next (afterEdge_withPins s q _ _ _)
  | fFall =>
    rw [hu (exec_fFall_eq_afterEdge s), exec_fFall_eq_afterEdge, ← afterEdge_withPins]
    rfl
  | qIdle | qRiseDc | qRiseSc | mHold | sRise | sSilence | sGuard | sHold | fHold | iWait | iSample | nTimeout | nWait
  | tWait | tSample | aEmitDc | aDropDc | aEmitSc | aDropSc =>
    rw [hu rfl]
    rfl

/-- The selector word has `rst` and `level` of the pins and no other. -/
theorem selector_withPins (s : State) (q : Pins) (hr : q.rst = s.pins.rst) (hl : q.level = s.pins.level) :
    (withPins s q).selector = s.selector := by
  simp only [State.selector, State.flagX, withPins, hr, hl]
  rfl

/-- `RESET` is chosen under `rst` only. -/
theorem ne_reset_of_chosen {s : State} {i : Instr} (h : Chosen s i) (hr : s.pins.rst = false) : i ≠ .reset := by
  rintro rfl
  cases h with
  | reset hr' => exact Bool.noConfusion (hr.symm.trans hr')

/-- Settles O44: without a sample neither cycle is active; with one, both select the same operation, which is not `RESET`. -/
theorem unqualifiedPinsAreNotRead : Obligations.UnqualifiedPinsAreNotRead := by
  intro s t p q rest hstream hp hq hsample hlevel h
  have presented := s.present_cons p rest hstream
  have pins : s.present.pins = p := by rw [presented]
  have other : State.present { s with stream := q :: rest } = withPins s.present q := by
    rw [presented]
    rfl
  have active : (withPins s.present q).active = s.present.active := by
    simp [State.active, withPins, pins, hp, hq, hsample]
  obtain ⟨ha, rfl⟩ | ⟨ha, i, hi, ht⟩ := step_cases h
  · rw [step_inactive _ (other ▸ active.trans ha), other]
    rfl
  · have sampled : p.sampleValid = true := by simpa [State.active, pins, hp] using ha
    have selected : (withPins s.present q).selector.select = .ok i := by
      rw [selector_withPins s.present q (by rw [pins, hp, hq]) (by rw [pins, hlevel sampled])]
      exact select_of_chosen hi
    rw [step_active _ i (other ▸ active.trans ha) (other ▸ selected), other]
    exact exec_withPins q (ne_reset_of_chosen hi (pins ▸ hp)) ht

/-! ## `QUIET` does not read the sample index -/

theorem present_setSampleIndex (s : State) (n : Nat) : (s.setSampleIndex n).present = s.present.setSampleIndex n := by
  cases hs : s.stream with
  | nil =>
    rw [s.present_nil hs, (s.setSampleIndex n).present_nil hs]
    rfl
  | cons p rest =>
    rw [s.present_cons p rest hs, (s.setSampleIndex n).present_cons p rest hs]
    rfl

/-- In `QUIET` one of four operations is chosen, and the same one at any other sample index; what it makes of two states
that differ there differs there only, and not at all when a Message begins. -/
theorem quiet_chosen_setSampleIndex {s t : State} {i : Instr} (n : Nat) (hs : s.state = .quiet) (hi : Chosen s i)
    (h : exec i s = .next t) :
    Chosen (s.setSampleIndex n) i ∧ ∃ u, exec i (s.setSampleIndex n) = .next u ∧
      u.setSampleIndex 0 = t.setSampleIndex 0 ∧ (t.state ≠ .quiet → u = t) := by
  have ht {v : State} (hv : exec i s = .next v) : t = v := Host.Outcome.next.inj (h.symm.trans hv)
  cases hi with
  | reset hr =>
    obtain rfl := ht rfl
    exact ⟨.reset hr, _, rfl, rfl, fun _ => rfl⟩
  | qIdle hr _ hl =>
    obtain rfl := ht rfl
    exact ⟨.qIdle hr hs hl, _, rfl, rfl, fun left => absurd hs left⟩
  | qRiseDc hr hv _ hl =>
    obtain rfl := ht rfl
    exact ⟨.qRiseDc hr hv hs hl, _, rfl, rfl, fun _ => rfl⟩
  | qRiseSc hr hv _ hl =>
    obtain rfl := ht rfl
    exact ⟨.qRiseSc hr hv hs hl, _, rfl, rfl, fun _ => rfl⟩
  | _ => simp_all

/-- Settles O47. -/
theorem quietIgnoresTheSampleIndex : Obligations.QuietIgnoresTheSampleIndex := by
  intro s t n hs h
  have other : State.present { s with sampleIndex := n } = s.present.setSampleIndex n := present_setSampleIndex s n
  have quiet : s.present.state = .quiet := s.present_state.trans hs
  obtain ⟨ha, rfl⟩ | ⟨ha, i, hi, ht⟩ := step_cases h
  · exact ⟨_, step_inactive _ (other ▸ ha), by rw [other]; rfl, fun left => absurd quiet left⟩
  · obtain ⟨hi', u, hu, same, left⟩ := quiet_chosen_setSampleIndex n quiet hi ht
    exact ⟨u, (step_of_chosen (other ▸ ha) (other ▸ hi')).trans (other ▸ hu), same, left⟩

/-! ## Nothing outside the record is read -/

/-- What a clock edge presents is made of the record and the stream alone. -/
theorem present_eq_of_sameRecord {s t : State} (h : SameRecord s t) (hstream : s.stream = t.stream) :
    s.present = t.present := by
  obtain ⟨variant, state, sampleIndex, lastchange, ticklength, lastlevel, bitacc, bitcount, bytes⟩ := h
  cases ht : t.stream with
  | nil =>
    rw [s.present_nil (hstream.trans ht), t.present_nil ht]
    simp [variant, state, sampleIndex, lastchange, ticklength, lastlevel, bitacc, bitcount, bytes, hstream]
  | cons p rest =>
    rw [s.present_cons p rest (hstream.trans ht), t.present_cons p rest ht]
    simp [variant, state, sampleIndex, lastchange, ticklength, lastlevel, bitacc, bitcount, bytes]

theorem step_eq_of_sameRecord {s t : State} (h : SameRecord s t) (hstream : s.stream = t.stream) : step s = step t := by
  rw [step_eq, step_eq, present_eq_of_sameRecord h hstream]

theorem outputs_eq_of_sameRecord {s t : State} (h : SameRecord s t) (hstream : s.stream = t.stream) (n : Nat) :
    outputs n s = outputs n t := by
  cases n with
  | zero => rfl
  | succ n => rw [outputs, outputs, step_eq_of_sameRecord h hstream]

/-- The four handlers of `ABORT` leave the record of a reset (rule R169). -/
theorem sameRecord_of_abortHandler {i : Instr} (hi : i ∈ [Instr.aEmitDc, .aDropDc, .aEmitSc, .aDropSc]) {s t : State}
    (h : exec i s = .next t) : SameRecord t (State.resetWith s.variant) := by
  simp only [List.mem_cons, List.not_mem_nil, or_false] at hi
  obtain rfl | rfl | rfl | rfl := hi <;> obtain rfl := Host.Outcome.next.inj h <;>
    exact ⟨rfl, rfl, rfl, rfl, rfl, rfl, rfl, rfl, rfl⟩

/-- Settles O52: both resets leave one record, and outputs depend on the record and the stream alone. -/
theorem resetIsComplete : Obligations.ResetIsComplete := by
  refine ⟨fun i hi s t h => ?_, fun s t => outputs_eq_of_sameRecord⟩
  have cleared := sameRecord_of_abortHandler hi h
  refine ⟨cleared, fun r u hr hu => ?_⟩
  obtain rfl := Host.Outcome.next.inj hu
  have same : SameRecord t r.hardReset := by
    rw [r.hardReset_eq, hr]
    exact cleared
  exact ⟨same, outputs_eq_of_sameRecord same⟩

end Sys2Proof.Safety
end

section
/-! PROOFS. The selector word and its flags in numbers (rules R70, R31, R76), and `ResetAll`. -/

namespace Sys2Proof.Safety

open Sys2Proof.Machine

/-! ## The selector word -/

theorem variant_code_iff (v : Variant) : v.code = true ↔ v = .sc := by
  cases v <;> decide

theorem frameOkSc_iff (m : Memory) :
    frameOkSc m = true ↔ 2 ≤ m.length ∧ ∃ b, Memory.read m 0 = some b ∧ b.toNat / 16 = 0xF := by
  cases m with
  | nil => simp [frameOkSc_nil]
  | cons b bs => simp [frameOkSc_cons, Memory.read]

theorem flagF_dc {s : State} (hv : s.variant = .dc) : s.flagF = frameOkDc s.bytes := by
  simp [State.flagF, hv]

theorem flagF_sc {s : State} (hv : s.variant = .sc) : s.flagF = frameOkSc s.bytes := by
  simp [State.flagF, hv]

theorem getLsbD_iff {w : SelWord} {n : Nat} {b : Bool} {P : Prop} (hw : w.getLsbD n = b) (hb : b = true ↔ P) :
    w.getLsbD n = true ↔ P := by
  rw [hw, hb]

/-- Settles O3: each bit of the word is a field of the selector, and each flag the inequality of rule R31. -/
theorem selectorWordLayout : Obligations.SelectorWordLayout := by
  intro s horigin d w
  have elapsed : s.elapsed = d := s.elapsed_eq horigin
  refine ⟨s.selector.word_bit13, getLsbD_iff s.selector.word_bit12 (variant_code_iff _), ?_,
    s.selector.word_bit8, getLsbD_iff s.selector.word_bit7 s.flagK_iff,
    getLsbD_iff s.selector.word_bit6 s.flagX_iff, getLsbD_iff s.selector.word_bit5 (elapsed ▸ s.flagH_iff),
    getLsbD_iff s.selector.word_bit4 (elapsed ▸ s.flagW_iff),
    getLsbD_iff s.selector.word_bit3 (elapsed ▸ s.flagG_iff), getLsbD_iff s.selector.word_bit2 (elapsed ▸ s.flagO_iff),
    getLsbD_iff s.selector.word_bit1 (elapsed ▸ s.flagZ_iff), fun hv => ?_, fun hv => ?_⟩
  · refine s.selector.word_state.trans ?_
    change s.state.code = _
    cases s.state <;> rfl
  · exact getLsbD_iff (s.selector.word_bit0.trans (flagF_dc hv)) (frameOkDc_iff _)
  · exact getLsbD_iff (s.selector.word_bit0.trans (flagF_sc hv)) (frameOkSc_iff _)

/-! ## The relations between the flags (rule R76) -/

theorem flagW_of_flagG (s : State) (h : s.flagG = true) : s.flagW = true :=
  s.flagW_iff.mpr (s.flagG_iff.mp h).le

/-- The comparisons are ordered by their bounds: 1/2, 3/2, 2 and 50 ticks. -/
theorem flags_ordered (s : State) :
    (s.flagW = true → s.flagH = true) ∧ (s.flagO = true → s.flagG = true) ∧ (s.flagZ = true → s.flagO = true) := by
  rw [s.flagW_iff, s.flagH_iff, s.flagO_iff, s.flagG_iff, s.flagZ_iff]
  omega

/-- With an unknown tick every bound is 0. -/
theorem flags_of_unknown (s : State) (h : s.flagK = false) (hd : 1 ≤ s.elapsed) :
    s.flagH = true ∧ s.flagW = true ∧ s.flagG = true ∧ s.flagO = true ∧ s.flagZ = true := by
  have tick : s.ticklength = 0 := by simpa [State.flagK_eq] using h
  rw [s.flagW_iff, s.flagH_iff, s.flagO_iff, s.flagG_iff, s.flagZ_iff]
  omega

/-- `Selector.computable` is the list of these relations. -/
theorem computable_of_relations {q : Selector} (above : q.g = true → q.w = true)
    (known : q.k = true →
      (q.w = true → q.h = true) ∧ (q.o = true → q.g = true) ∧ (q.z = true → q.o = true))
    (unknown : q.k = false → q.h = true ∧ q.w = true ∧ q.g = true ∧ q.o = true ∧ q.z = true) :
    q.computable = true := by
  cases hk : q.k with
  | true =>
    obtain ⟨skip, timeout, silence⟩ := known hk
    simp only [Selector.computable, hk, if_true, Bool.and_eq_true, Bool.or_eq_true]
    grind
  | false =>
    obtain ⟨half, skip, long, timeout, silence⟩ := unknown hk
    simp [Selector.computable, hk, half, skip, long, timeout, silence]

/-- Settles O4. -/
theorem contradictoryFlagsNeverComputed : Obligations.ContradictoryFlagsNeverComputed :=
  fun s => ⟨flagW_of_flagG s, fun _ => flags_ordered s, flags_of_unknown s, fun hd =>
    computable_of_relations (flagW_of_flagG s) (fun _ => flags_ordered s) fun hk => flags_of_unknown s hk hd⟩

/-! ## `ResetAll` -/

/-- Settles O23: the record that the internal reset leaves is that of a reset into the state's own variant. -/
theorem resetAllClearsTheMessage : Obligations.ResetAllClearsTheMessage :=
  fun s => s.resetAll_eq

end Sys2Proof.Safety
end

section
/-! PROOFS. The Byte Sequence: which index an operation stores to and what it leaves unchanged, that a clock edge only appends
to it or clears it, and that only `ABORT` reads it. -/

namespace Sys2Proof.Safety

open Sys2Proof.Machine

/-! ## One pushed bit and the Byte Sequence -/

/-- Rule R51: the only write is an append of the byte reported. -/
theorem BitPushed.bytes_eq_append {b : Bool} {s t : State} (h : BitPushed b s t) :
    t.bytes = s.bytes ++ t.out.byte.toList := by
  obtain ⟨-, completes, accumulates⟩ := h
  by_cases full : s.bitcount = 7
  · obtain ⟨-, -, bytes, byte⟩ := completes full
    rw [bytes, byte, Option.toList_some]
  · obtain ⟨-, -, bytes, byte⟩ := accumulates full
    rw [bytes, byte, Option.toList_none, List.append_nil]

/-- Where `storeIndex` gives an index, the reported byte is stored there and nowhere else. -/
theorem BitPushed.stores {b : Bool} {s t : State} (h : BitPushed b s t) {a : Nat} (ha : s.storeIndex = some a) :
    a = s.bytes.length ∧ t.out.byte ≠ none ∧ Memory.read t.bytes a = t.out.byte ∧
      ∀ k, k ≠ a → Memory.read t.bytes k = Memory.read s.bytes k := by
  rw [s.storeIndex_eq] at ha
  split at ha
  case isFalse => cases ha
  case isTrue full =>
    obtain rfl := Option.some.inj ha
    obtain ⟨-, completes, -⟩ := h
    obtain ⟨-, -, bytes, byte⟩ := completes ((bitcount_eq_seven_iff _).mpr full)
    rw [bytes, byte]
    exact ⟨rfl, Option.some_ne_none _, Memory.read_append_at s.bytes _, Memory.read_append_of_ne s.bytes _⟩

/-- Where `storeIndex` gives none, no byte is complete and nothing is stored. -/
theorem BitPushed.stores_nothing {b : Bool} {s t : State} (h : BitPushed b s t) (hnone : s.storeIndex = none) :
    t.out.byte = none ∧ MemoryKept s t := by
  rw [s.storeIndex_eq] at hnone
  split at hnone
  case isTrue => cases hnone
  case isFalse room =>
    obtain ⟨-, -, accumulates⟩ := h
    obtain ⟨-, -, bytes, byte⟩ := accumulates (mt (bitcount_eq_seven_iff _).mp room)
    exact ⟨byte, fun k => by rw [bytes]⟩

/-! ## Frames of the three groups of operations -/

/-- The five pushing operations have the form `afterEdge`, and the deciding three pass the tick on. -/
theorem exec_pushing {l : Bool} {i : Instr} (hi : i ∈ [Instr.mFallCal, .fFall, .mFallLong, .mFallShort, .nEdge l])
    {s t : State} (h : exec i s = .next t) :
    ∃ tick b target, t = afterEdge s tick b target ∧
      (i ∈ [Instr.mFallLong, .mFallShort, .nEdge l] → tick = s.ticklength) := by
  have ht {v : State} (hv : exec i s = .next v) : t = v := Host.Outcome.next.inj (h.symm.trans hv)
  simp only [List.mem_cons, List.not_mem_nil, or_false] at hi
  obtain rfl | rfl | rfl | rfl | rfl := hi
  · exact ⟨s.elapsed, false, .space, ht rfl, fun deciding => by simp at deciding⟩
  · exact ⟨s.elapsed, true, .inmessage, ht (exec_fFall_eq_afterEdge s), fun deciding => by simp at deciding⟩
  · exact ⟨s.ticklength, true, .space, ht rfl, fun _ => rfl⟩
  · exact ⟨s.ticklength, false, .space, ht rfl, fun _ => rfl⟩
  · exact ⟨s.ticklength, l, .tickwait, ht rfl, fun _ => rfl⟩

/-- Settles O24: the memory clauses are those of one pushed bit, the registers those of `EdgeEffect`. -/
theorem pushingOperationsFrame : Obligations.PushingOperationsFrame := by
  intro l i hi s t h
  obtain ⟨tick, b, target, rfl, hdeciding⟩ := exec_pushing hi h
  obtain ⟨-, -, -, push, -, variant, lastlevel, pins, stream⟩ := edgeEffect_afterEdge s tick b target
  exact ⟨fun _ => push.stores, push.stores_nothing, variant, lastlevel, pins, stream,
    fun deciding => (afterEdge_ticklength s tick b target).trans (hdeciding deciding)⟩

/-- Settles O25: `S_RISE` alone writes `lastchange`, the two level samples alone write `lastlevel`. -/
theorem otherOperationsFrame : Obligations.OtherOperationsFrame := by
  intro l i hi s t h
  cases i with
  | qIdle | qRiseDc | qRiseSc | mHold | sSilence | sGuard | sHold | fHold | iWait | nTimeout | nWait | tWait =>
    obtain rfl := Host.Outcome.next.inj h
    exact ⟨fun _ => rfl, rfl, rfl, rfl, rfl, rfl, rfl, rfl, fun _ => rfl, fun _ => rfl⟩
  | sRise =>
    obtain rfl := Host.Outcome.next.inj h
    exact ⟨fun _ => rfl, rfl, rfl, rfl, rfl, rfl, rfl, rfl, fun ne => absurd rfl ne, fun _ => rfl⟩
  | iSample level | tSample level =>
    obtain rfl := Host.Outcome.next.inj h
    obtain rfl : level = l := by simpa using hi
    exact ⟨fun _ => rfl, rfl, rfl, rfl, rfl, rfl, rfl, rfl, fun _ => rfl, fun no => absurd (by simp) no⟩
  | reset | mFallCal | mFallLong | mFallShort | fFall | nEdge | aEmitDc | aDropDc | aEmitSc | aDropSc => simp at hi

/-- Settles O26: each of the five leaves the Byte Sequence of `resetAll`. -/
theorem resettingOperationsFrame : Obligations.ResettingOperationsFrame := by
  intro i hi s t h
  simp only [List.mem_cons, List.not_mem_nil, or_false] at hi
  obtain rfl | handler := hi
  · obtain rfl := Host.Outcome.next.inj h
    exact ⟨Memory.read_empty, rfl, rfl, fun ne => absurd rfl ne⟩
  · obtain rfl | rfl | rfl | rfl := handler <;> obtain rfl := Host.Outcome.next.inj h <;>
      exact ⟨Memory.read_empty, rfl, rfl, fun _ => rfl⟩

/-! ## Append or clear -/

/-- A clock edge appends the byte it reports, if any, or clears the Byte Sequence on the way to `QUIET`. -/
theorem StepEffect.bytes {s u : State} (effect : StepEffect s u) (hout : s.out = Out.none) :
    u.bytes = s.bytes ++ u.out.byte.toList ∨ (u.bytes = [] ∧ u.state = .quiet ∧ u.out.byte = none) := by
  have unpushed : s.bytes = s.bytes ++ Out.none.byte.toList := (List.append_nil s.bytes).symm
  cases effect with
  | idle ha h =>
    subst h
    exact .inl (hout ▸ unpushed)
  | waits hr h | begins target hr hst hfirst h | rises hr hv hst h | timesOut hr hat h | samplesLevel l hr hv hst h =>
    subst h
    exact .inl unpushed
  | calibratesDc hr hv hst hl hk h | calibratesSc hr hv hst hl h | decidesDc b hr hv hst hk h
  | decidesSc b hr hv hst h =>
    subst h
    exact .inl (EdgeEffect.bitPushed (edgeEffect_afterEdge s _ _ _)).bytes_eq_append
  | hardReset hr h | returns frame hr hst h =>
    subst h
    exact .inr ⟨rfl, rfl, rfl⟩

/-- Settles O45. -/
theorem byteSequenceIsAppendOnly : Obligations.ByteSequenceIsAppendOnly := by
  intro s t h
  have grown := (step_stepEffect h).bytes s.present_out
  rwa [s.present_bytes] at grown

/-! ## Only `ABORT` reads the Byte Sequence -/

/-- The state with another Byte Sequence. -/
def withBytes (s : State) (m : Memory) : State :=
  { s with bytes := m }

theorem present_withBytes (s : State) (m : Memory) : (withBytes s m).present = withBytes s.present m := by
  cases hs : s.stream with
  | nil =>
    rw [s.present_nil hs, (withBytes s m).present_nil hs]
    rfl
  | cons p rest =>
    rw [s.present_cons p rest hs, (withBytes s m).present_cons p rest hs]
    rfl

/-- Flag `F` is read in `ABORT` alone (rule R74). -/
theorem select_frameFlag (q : Selector) (f : Bool) (hq : q.st ≠ .abort) :
    Selector.select { q with f := f } = q.select := by
  obtain ⟨r, v, st, _⟩ := q
  cases st with
  | abort => exact absurd rfl hq
  | quiet | mark | space | firstmark | inmessage | needchange | tickwait => cases v <;> rfl

/-- Flag `F` is the only field of the selector that depends on the Byte Sequence (rule R31). -/
theorem select_withBytes (s : State) (m : Memory) (hs : s.state ≠ .abort) :
    (withBytes s m).selector.select = s.selector.select :=
  select_frameFlag s.selector (withBytes s m).flagF hs

theorem withBytes_append_of_no_output {u : State} (m : Memory) (hout : u.out = Out.none) :
    withBytes u (m ++ u.out.byte.toList) = withBytes u m := by
  rw [hout]
  exact congrArg (withBytes u) (List.append_nil m)

/-- `PushBit` appends to whatever stands in the Byte Sequence. -/
theorem pushBit_withBytes (s : State) (m : Memory) (b : Bool) (hout : s.out.byte = none) :
    (withBytes s m).pushBit b = withBytes (s.pushBit b) (m ++ (s.pushBit b).out.byte.toList) := by
  by_cases full : s.bitcount.toNat = 7
  · rw [s.pushBit_completes b full, (withBytes s m).pushBit_completes b full]
    rfl
  · rw [s.pushBit_accumulates b full, (withBytes s m).pushBit_accumulates b full, hout, Option.toList_none,
      List.append_nil]
    rfl

theorem afterEdge_withBytes (s : State) (m : Memory) (tick : Nat) (b : Bool) (target : DecoderState) :
    afterEdge (withBytes s m) tick b target =
      withBytes (afterEdge s tick b target) (m ++ (afterEdge s tick b target).out.byte.toList) :=
  congrArg (fun u : State => (u.setLastchange s.idx).goto target)
    (pushBit_withBytes (s.beginSample.setTicklength tick) m b rfl)

/-- Where neither a hard reset nor `ABORT` selects, the operation appends the byte it reports and reads no byte. -/
theorem exec_withBytes {i : Instr} {s u : State} (m : Memory) (hi : Chosen s i) (hr : s.pins.rst = false)
    (hs : s.state ≠ .abort) (h : exec i s = .next u) :
    exec i (withBytes s m) = .next (withBytes u (m ++ u.out.byte.toList)) := by
  have hu {v : State} (hv : exec i s = .next v) : u = v := Host.Outcome.next.inj (h.symm.trans hv)
  cases hi with
  | reset hr' => exact Bool.noConfusion (hr.symm.trans hr')
  | aEmitDc _ _ hst | aDropDc _ _ hst | aEmitSc _ _ hst | aDropSc _ _ hst => exact absurd hst hs
  | mFallCal | mFallLong | mFallShort | nEdge =>
    rw [hu rfl]
    exact congrArg Host.Outcome.next (afterEdge_withBytes s m _ _ _)
  | fFall =>
    rw [hu (exec_fFall_eq_afterEdge s), exec_fFall_eq_afterEdge, ← afterEdge_withBytes]
    rfl
  | qIdle | qRiseDc | qRiseSc | mHold | sRise | sSilence | sGuard | sHold | fHold | iWait | iSample | nTimeout | nWait
  | tWait | tSample =>
    rw [hu rfl, withBytes_append_of_no_output m rfl]
    rfl

/-- Settles O46: both states are active together, and outside `ABORT` both select the same operation. -/
theorem byteSequenceReadOnlyInAbort : Obligations.ByteSequenceReadOnlyInAbort := by
  intro s t m hs hr h
  have other : State.present { s with bytes := m } = withBytes s.present m := present_withBytes s m
  have outside : s.present.state ≠ .abort := s.present_state ▸ hs
  obtain ⟨ha, rfl⟩ | ⟨ha, i, hi, ht⟩ := step_cases h
  · rw [step_inactive _ (other ▸ ha), other]
    exact congrArg Host.Outcome.next (withBytes_append_of_no_output m s.present_out).symm
  · have selected := (select_withBytes s.present m outside).trans (select_of_chosen hi)
    rw [step_active _ i (other ▸ ha) (other ▸ selected), other]
    exact exec_withBytes m hi hr outside ht

/-! ## `BYTE(v)` -/

/-- The bits of `BYTE(v)` are the binary digits of `v`. -/
theorem bitsValue_byteToBits (v : Byte) : bitsValue (byteToBits v) = v.toNat := by
  have bound := v.isLt
  simp only [bitsValue, byteToBits, List.foldl_cons, List.foldl_nil, BitVec.getLsbD, Nat.toNat_testBit]
  omega

/-- Settles O6: eight bits complete one byte, and its value is theirs. -/
theorem byteBitsPackBack : Obligations.ByteBitsPackBack := by
  intro v
  rw [packBytes_of_length_eq rfl, bitsValue_byteToBits, BitVec.ofNat_toNat, BitVec.setWidth_eq]

end Sys2Proof.Safety
end

section
/-! PROOFS. The operation table of rule R74: its match sets are disjoint, so a word selects an operation exactly when it
matches that operation's row; and the reserved space of rule R75, in words and in states. -/

namespace Sys2Proof.Safety

open Sys2Proof.Machine

/-! ## The match sets are disjoint -/

/-- Two rows demand different values of a bit at which both look. -/
def RowsDiffer (row row' : Row) : Prop :=
  row.pattern &&& row'.mask ≠ row'.pattern &&& row.mask

theorem matches_iff (row : Row) (w : SelWord) : row.matches w = true ↔ w &&& row.mask = row.pattern := by
  simp [Row.matches]

/-- No word matches two rows that differ. -/
theorem RowsDiffer.not_both {row row' : Row} (h : RowsDiffer row row') {w : SelWord} (hw : row.matches w = true) :
    ¬ row'.matches w = true := by
  intro hw'
  refine h ?_
  rw [← (matches_iff row w).mp hw, ← (matches_iff row' w).mp hw', BitVec.and_assoc, BitVec.and_assoc,
    BitVec.and_comm row.mask]

theorem table_pairwise_differ : table.Pairwise RowsDiffer := by
  unfold RowsDiffer
  decide

/-- Where the rows differ pairwise, the order of the search does not matter. -/
theorem find?_matches_iff {rows : List Row} (h : rows.Pairwise RowsDiffer) (w : SelWord) (row : Row) :
    rows.find? (·.matches w) = some row ↔ row ∈ rows ∧ row.matches w = true := by
  induction rows with
  | nil => simp
  | cons first rows ih =>
    obtain ⟨differ, others⟩ := List.pairwise_cons.mp h
    rw [List.find?_cons, List.mem_cons]
    split
    case h_1 hw =>
      constructor
      · intro found
        obtain rfl := Option.some.inj found
        exact ⟨.inl rfl, hw⟩
      · rintro ⟨rfl | later, hrow⟩
        · rfl
        · exact absurd hrow ((differ row later).not_both hw)
    case h_2 hw =>
      rw [ih others]
      constructor
      · exact fun ⟨later, hrow⟩ => ⟨.inr later, hrow⟩
      · rintro ⟨rfl | later, hrow⟩
        · exact absurd hrow (by simp [hw])
        · exact ⟨later, hrow⟩

/-- Rule R74 without the order of the table: a word selects `i` exactly when it matches a row that stands for `i`. -/
theorem decode_eq_ok_iff (w : SelWord) (i : Instr) :
    decode w = .ok i ↔ ∃ row ∈ table, row.matches w = true ∧ row.instr (levelBit w) = i := by
  have found := find?_matches_iff table_pairwise_differ w
  unfold decode
  split
  case h_1 row hrow =>
    obtain ⟨mem, hw⟩ := (found row).mp hrow
    constructor
    · exact fun h => ⟨row, mem, hw, Except.ok.inj h⟩
    · rintro ⟨row', mem', hw', rfl⟩
      rw [Option.some.inj (hrow.symm.trans ((found row').mpr ⟨mem', hw'⟩))]
  case h_2 hnone =>
    constructor
    · exact fun h => nomatch h
    · rintro ⟨row, mem, hw, -⟩
      rw [(found row).mpr ⟨mem, hw⟩] at hnone
      cases hnone

/-! ## Operations with and without the level operand -/

theorem levelField_getLsbD (l : Bool) (n : Nat) : (levelField l).getLsbD n = (l && decide (n = 8)) := by
  cases l with
  | false => simp [levelField]
  | true =>
    have power : levelField true = BitVec.twoPow 14 8 := rfl
    simp [power, BitVec.getLsbD_twoPow, eq_comm]

/-- Asking for a row that leaves bit 8 open and for the level at bit 8 is asking for one wider row (rule R71). -/
theorem and_levelField_iff {m p : SelWord} (hm : m.getLsbD 8 = false) (hp : p.getLsbD 8 = false) (w : SelWord)
    (l : Bool) : w &&& (m ||| levelField true) = p ||| levelField l ↔ w &&& m = p ∧ levelBit w = l := by
  have bits (n : Nat) : (w &&& (m ||| levelField true)).getLsbD n = (p ||| levelField l).getLsbD n ↔
      (w.getLsbD n && (m.getLsbD n || decide (n = 8))) = (p.getLsbD n || l && decide (n = 8)) := by
    simp only [BitVec.getLsbD_and, BitVec.getLsbD_or, levelField_getLsbD, Bool.true_and]
  constructor
  · intro h
    have bit (n : Nat) := (bits n).mp (congrArg (BitVec.getLsbD · n) h)
    refine ⟨BitVec.eq_of_getLsbD_eq fun n _ => ?_, ?_⟩
    · rw [BitVec.getLsbD_and]
      by_cases level : n = 8
      · rw [level, hm, hp, Bool.and_false]
      · simpa only [level, decide_false, Bool.and_false, Bool.or_false] using bit n
    · simpa only [hm, hp, decide_true, Bool.false_or, Bool.and_true, levelBit] using bit 8
  · rintro ⟨rfl, rfl⟩
    refine BitVec.eq_of_getLsbD_eq fun n _ => (bits n).mpr ?_
    by_cases level : n = 8
    · rw [level, hp, hm]
      rfl
    · simp only [level, decide_false, Bool.and_false, Bool.or_false, BitVec.getLsbD_and]

/-- Settles O1: of the rows one stands for the operation, and where the operation has a level operand the row and the
operand together are the wider row. -/
theorem selectorDecodesExactlyItsRow : Obligations.SelectorDecodesExactlyItsRow := by
  intro i w _
  rw [decode_eq_ok_iff]
  cases i with
  | iSample l =>
    have wider := and_levelField_iff (m := 0x3EA0) (p := 0x1AA0) rfl rfl w l
    refine Iff.trans ?_ wider.symm
    simp [table, matches_iff]
  | nEdge l =>
    have wider := and_levelField_iff (m := 0x3EC4) (p := 0x1CC0) rfl rfl w l
    refine Iff.trans ?_ wider.symm
    simp [table, matches_iff]
  | tSample l =>
    have wider := and_levelField_iff (m := 0x3E90) (p := 0x1E90) rfl rfl w l
    refine Iff.trans ?_ wider.symm
    simp [table, matches_iff]
  | _ => simp [table, matches_iff, careMask, encode]

/-! ## The reserved space -/

theorem variant_code_ofCode (b : Bool) : (Variant.ofCode b).code = b := by
  cases b <;> rfl

theorem state_code_ofCode (c : BitVec 3) : (DecoderState.ofCode c).code = c := by
  revert c
  decide

/-- A word is assembled from its own fields. -/
theorem word_ofWord (w : SelWord) : (Selector.ofWord w).word = w := by
  refine BitVec.eq_of_getLsbD_eq fun n hn => ?_
  interval_cases n
  all_goals
    simp only [Selector.word_bit13, Selector.word_bit12, Selector.word_bit11, Selector.word_bit10, Selector.word_bit9,
      Selector.word_bit8, Selector.word_bit7, Selector.word_bit6, Selector.word_bit5, Selector.word_bit4,
      Selector.word_bit3, Selector.word_bit2, Selector.word_bit1, Selector.word_bit0, Selector.ofWord,
      variant_code_ofCode, state_code_ofCode, BitVec.getLsbD_extractLsb', Nat.reduceLT, Nat.reduceAdd,
      decide_true, Bool.true_and]

/-- The decoder reads the fields of a word and nothing else. -/
theorem decode_eq_select (w : SelWord) : decode w = (Selector.ofWord w).select := by
  rw [← decode_word, word_ofWord]

/-! The three classes of rule R75. -/

theorem select_scStateInDc {q : Selector} (hr : q.r = false) (hv : q.v = .dc)
    (hs : q.st ∈ [DecoderState.firstmark, .inmessage, .needchange, .tickwait]) : q.select = .error .scStateInDc := by
  simp only [List.mem_cons, List.not_mem_nil, or_false] at hs
  obtain hs | hs | hs | hs := hs <;> simp [Selector.select, hr, hv, hs]

theorem select_dcStateInSc {q : Selector} (hr : q.r = false) (hv : q.v = .sc)
    (hs : q.st ∈ [DecoderState.mark, .space]) : q.select = .error .dcStateInSc := by
  simp only [List.mem_cons, List.not_mem_nil, or_false] at hs
  obtain hs | hs := hs <;> simp [Selector.select, hr, hv, hs]

theorem select_uncalibratedSc {q : Selector} (hr : q.r = false) (hv : q.v = .sc)
    (hs : q.st ∈ [DecoderState.inmessage, .needchange, .tickwait]) (hk : q.k = false) :
    q.select = .error .uncalibratedSc := by
  simp only [List.mem_cons, List.not_mem_nil, or_false] at hs
  obtain hs | hs | hs := hs <;> simp [Selector.select, hr, hv, hs, hk]

/-! Everywhere else an operation is selected. -/

theorem exists_select_of_dc {q : Selector} (hr : q.r = false) (hv : q.v = .dc)
    (hs : q.st ∈ [DecoderState.quiet, .mark, .space, .abort]) : ∃ i, q.select = .ok i := by
  simp only [List.mem_cons, List.not_mem_nil, or_false] at hs
  obtain hs | hs | hs | hs := hs <;> simp [Selector.select, hr, hv, hs]

theorem exists_select_of_sc {q : Selector} (hr : q.r = false) (hv : q.v = .sc)
    (hs : q.st ∈ [DecoderState.quiet, .firstmark, .abort]) : ∃ i, q.select = .ok i := by
  simp only [List.mem_cons, List.not_mem_nil, or_false] at hs
  obtain hs | hs | hs := hs <;> simp [Selector.select, hr, hv, hs]

theorem exists_select_of_calibrated {q : Selector} (hr : q.r = false) (hv : q.v = .sc)
    (hs : q.st ∈ [DecoderState.inmessage, .needchange, .tickwait]) (hk : q.k = true) : ∃ i, q.select = .ok i := by
  simp only [List.mem_cons, List.not_mem_nil, or_false] at hs
  obtain hs | hs | hs := hs <;> simp [Selector.select, hr, hv, hs, hk]

/-- Settles O2: a clause for `R`, one for each class, and three for the rest. -/
theorem reservedSpaceIsExactlyRefused : Obligations.ReservedSpaceIsExactlyRefused := by
  intro w q
  have selected : decode w = q.select := decode_eq_select w
  rw [selected]
  exact ⟨fun hr => by simp [Selector.select, hr], select_scStateInDc, select_dcStateInSc, select_uncalibratedSc,
    exists_select_of_dc, exists_select_of_sc, exists_select_of_calibrated⟩

/-- A sample in a state that selects no operation is refused. -/
theorem step_refused {s : State} (ha : s.present.active = true) {why : Reserved}
    (h : s.present.selector.select = .error why) : step s = .refused (.reservedSelector why) := by
  simp [step_eq, ha, h]

/-- Settles O12: `K` is 0 exactly at an unknown tick. -/
theorem reservedStatesAreRefused : Obligations.ReservedStatesAreRefused := by
  rintro s l ⟨hr, valid, -⟩
  have ha : s.present.active = true := by simp [State.active, valid]
  have variant : s.present.selector.v = s.variant := s.present_variant
  have state : s.present.selector.st = s.state := s.present_state
  refine ⟨fun hv hs => step_refused ha ?_, fun hv hs => step_refused ha ?_, fun hv hs hk => step_refused ha ?_⟩
  · exact select_scStateInDc hr (variant.trans hv) (state ▸ hs)
  · exact select_dcStateInSc hr (variant.trans hv) (state ▸ hs)
  · have unknown : s.present.selector.k = false := by simp [State.selector, State.flagK, hk]
    exact select_uncalibratedSc hr (variant.trans hv) (state ▸ hs) unknown

/-! ## Words written out -/

/-- Settles O5: seven of the words agree with the operation's row where it looks, and the eighth is of the first class. -/
theorem writtenOutWordsDecode : Obligations.WrittenOutWordsDecode := by
  have row (i : Instr) (w : SelWord) (h : w &&& careMask i = encode i) : decode w = .ok i :=
    (selectorDecodesExactlyItsRow i w (by cases i <;> rfl)).mpr h
  refine ⟨row _ _ rfl, row _ _ rfl, row _ _ rfl, row _ _ rfl, row _ _ rfl, row _ _ rfl, row _ _ rfl, ?_⟩
  exact (decode_eq_select _).trans (select_scStateInDc rfl rfl (by decide))

/-! ## The flags that a selection reads -/

/-- The flags at which some row of the Decoder State looks have the same values (rule R74): `K` in the timing states and at a
falling or low level, and one comparison, or `X`, with it; the validator's flag in `ABORT`. -/
def AgreeWhereRead (q q' : Selector) : Prop :=
  match q.st with
  | .quiet => True
  | .firstmark => True
  | .mark => q.l = false → q.k = q'.k ∧ (q.k = true → q.g = q'.g)
  | .space => q.l = false → q.k = q'.k ∧ (q.k = true → q.z = q'.z)
  | .abort => q.f = q'.f
  | .inmessage => q.k = q'.k ∧ (q.k = true → q.h = q'.h)
  | .needchange => q.k = q'.k ∧ (q.k = true → q.o = q'.o ∧ q.x = q'.x)
  | .tickwait => q.k = q'.k ∧ (q.k = true → q.w = q'.w)

theorem select_congr {q q' : Selector} (hr : q.r = q'.r) (hv : q.v = q'.v) (hst : q.st = q'.st) (hl : q.l = q'.l)
    (h : q.r = false → AgreeWhereRead q q') : q.select = q'.select := by
  obtain ⟨r, v, st, l, k, x, hf, w, g, o, z, f⟩ := q
  obtain ⟨r', v', st', l', k', x', hf', w', g', o', z', f'⟩ := q'
  subst hr hv hst hl
  cases r with
  | true => rfl
  | false =>
    have flags := h rfl
    cases st with
    | quiet | firstmark => cases v <;> rfl
    | mark | space =>
      cases l with
      | true => cases v <;> rfl
      | false =>
        obtain ⟨rfl, compared⟩ := flags rfl
        cases k with
        | false => cases v <;> rfl
        | true =>
          obtain rfl := compared rfl
          cases v <;> rfl
    | abort =>
      obtain rfl := flags
      cases v <;> rfl
    | inmessage | tickwait =>
      obtain ⟨rfl, compared⟩ := flags
      cases k with
      | false => cases v <;> rfl
      | true =>
        obtain rfl := compared rfl
        cases v <;> rfl
    | needchange =>
      obtain ⟨rfl, compared⟩ := flags
      cases k with
      | false => cases v <;> rfl
      | true =>
        obtain ⟨rfl, rfl⟩ := compared rfl
        cases v <;> rfl

/-! ## A word placed -/

theorem withFetchWord_toNat (s : State) (w : SelWord) : s.withFetchWord 16 w.toNat = s.placeWord w := by
  have small : w.toNat % 2 ^ 16 = w.toNat := Nat.mod_eq_of_lt (by omega)
  rw [State.withFetchWord, small, BitVec.ofNat_toNat, BitVec.setWidth_eq]

theorem elapsed_placeTick (s : State) (k : Bool) {d : Nat} (hd : 1 ≤ d) : (s.placeTick k d).elapsed = d := by
  have index : (s.placeTick k d).sampleIndex = s.lastchange + d - 1 := rfl
  have origin : (s.placeTick k d).lastchange = s.lastchange := rfl
  rw [State.elapsed_eq _ (by omega)]
  omega

/-- The flags of a placed tick: `K` is the `k` asked for, and if it is 1 the bounds are those of a tick of four samples. -/
theorem flags_placeTick (s : State) (k : Bool) {d : Nat} (hd : 1 ≤ d) :
    (s.placeTick k d).flagK = k ∧ (k = true →
      (s.placeTick k d).flagH = decide (4 ≤ 2 * d) ∧ (s.placeTick k d).flagW = decide (12 ≤ 2 * d) ∧
      (s.placeTick k d).flagG = decide (12 < 2 * d) ∧ (s.placeTick k d).flagO = decide (8 < d) ∧
      (s.placeTick k d).flagZ = decide (200 < d)) := by
  have tick : (s.placeTick k d).ticklength = if k then 4 else 0 := rfl
  constructor
  · rw [State.flagK_eq, tick]
    cases k <;> rfl
  · rintro rfl
    simp only [State.flagH_eq, State.flagW_eq, State.flagG_eq, State.flagO_eq, State.flagZ_eq, tick,
      elapsed_placeTick s true hd]
    exact ⟨rfl, rfl, rfl, rfl, rfl⟩

/-- The placed state with the pins of the clock cycle in which it is to select. -/
def placedState (s : State) (q : Selector) (p : Pins) : State :=
  { s.placeSelector q with pins := p, out := Out.none }

theorem placeWord_present (s : State) (w : SelWord) : (s.placeWord w).present =
    placedState s (Selector.ofWord w) (selectorPins (Selector.ofWord w) s.variant) := by
  have stream (q : Selector) : (s.placeSelector q).stream = s.stream := by
    unfold State.placeSelector
    split
    · rfl
    · dsimp only
      split <;> (try split) <;> rfl
  simp [placedState, State.placeWord, State.present, stream]

/-- In the placed state the same operation is selected as by the fields asked for. -/
theorem select_placedState (s : State) (q : Selector) (cfg : Variant) :
    (placedState s q (selectorPins q cfg)).selector.select = q.select := by
  cases hr : q.r with
  | true => simp [Selector.select, State.selector, placedState, selectorPins, hr]
  | false =>
    obtain ⟨r, v, st, l, k, x, h, w, g, o, z, f⟩ := q
    obtain rfl : r = false := hr
    have tick {d : Nat} (hd : 1 ≤ d) := flags_placeTick { s with variant := v, state := st } k hd
    cases st with
    | quiet | firstmark => exact select_congr rfl rfl rfl rfl fun _ => trivial
    | mark =>
      obtain ⟨known, flags⟩ := tick (d := if g then 7 else 1) (by cases g <;> decide)
      cases l with
      | true => exact select_congr rfl rfl rfl rfl fun _ => nofun
      | false =>
        refine select_congr rfl rfl rfl rfl fun _ _ => ⟨known, fun hk => ?_⟩
        obtain ⟨-, -, long, -⟩ := flags (known.symm.trans hk)
        exact long.trans (by cases g <;> rfl)
    | space =>
      obtain ⟨known, flags⟩ := tick (d := if z then 201 else 1) (by cases z <;> decide)
      cases l with
      | true => exact select_congr rfl rfl rfl rfl fun _ => nofun
      | false =>
        refine select_congr rfl rfl rfl rfl fun _ _ => ⟨known, fun hk => ?_⟩
        obtain ⟨-, -, -, -, silence⟩ := flags (known.symm.trans hk)
        exact silence.trans (by cases z <;> rfl)
    | abort => cases v <;> cases f <;> exact select_congr rfl rfl rfl rfl fun _ => rfl
    | inmessage =>
      obtain ⟨known, flags⟩ := tick (d := if h then 2 else 1) (by cases h <;> decide)
      refine select_congr rfl rfl rfl rfl fun _ => ⟨known, fun hk => ?_⟩
      obtain ⟨half, -⟩ := flags (known.symm.trans hk)
      exact half.trans (by cases h <;> rfl)
    | needchange =>
      obtain ⟨known, flags⟩ := tick (d := if o then 9 else 1) (by cases o <;> decide)
      refine select_congr rfl rfl rfl rfl fun _ => ⟨known, fun hk => ?_⟩
      obtain ⟨-, -, -, timeout, -⟩ := flags (known.symm.trans hk)
      exact ⟨timeout.trans (by cases o <;> rfl), by cases l <;> cases x <;> rfl⟩
    | tickwait =>
      obtain ⟨known, flags⟩ := tick (d := if w then 6 else 1) (by cases w <;> decide)
      refine select_congr rfl rfl rfl rfl fun _ => ⟨known, fun hk => ?_⟩
      obtain ⟨-, skip, -⟩ := flags (known.symm.trans hk)
      exact skip.trans (by cases w <;> rfl)

/-- Settles O11: what the placed state selects is what the word's own fields select. -/
theorem placedWordRunsNext : Obligations.PlacedWordRunsNext := by
  intro s w i hi
  rw [withFetchWord_toNat]
  have active : (s.placeWord w).present.active = true := by
    rw [placeWord_present]
    exact Bool.or_true _
  refine step_active _ i active ?_
  rw [placeWord_present, select_placedState, ← decode_eq_select, hi]

end Sys2Proof.Safety
end

section
/-! PROOFS. A whole self-clocking Message (rules R79, R131, R145, R146, R194): level streams decoded piece by piece, each
operation of the self-clocking Demodulator as one such piece, and the Message put together from them. -/

namespace Sys2Proof.Safety

open Sys2Proof.Machine

/-! ## Level streams decoded piece by piece -/

/-- From every state with `P` the levels, one in each clock cycle, lead to a state with `Q`, and exactly these bits and
these frames are output on the way. -/
def Decodes (P : State → Prop) (levels bits : List Bool) (frames : List Memory) (Q : State → Prop) : Prop :=
  ∀ (s : State) (rest : List Pins), P s → s.stream = samples levels ++ rest →
    ∃ u, run levels.length s = .next u ∧ bitsOf (outputs levels.length s) = bits ∧
      framesOf (outputs levels.length s) = frames ∧ Q u ∧ u.stream = rest

theorem samples_append (levels levels' : List Bool) : samples (levels ++ levels') = samples levels ++ samples levels' :=
  List.map_append

theorem bitsOf_append (os os' : List Out) : bitsOf (os ++ os') = bitsOf os ++ bitsOf os' :=
  List.filterMap_append

theorem framesOf_append (os os' : List Out) : framesOf (os ++ os') = framesOf os ++ framesOf os' :=
  List.filterMap_append

theorem Decodes.nil (P : State → Prop) : Decodes P [] [] [] P :=
  fun s _ hp hs => ⟨s, rfl, rfl, rfl, hp, hs⟩

theorem Decodes.append {P Q R : State → Prop} {levels levels' bits bits' : List Bool} {frames frames' : List Memory}
    (first : Decodes P levels bits frames Q) (second : Decodes Q levels' bits' frames' R) :
    Decodes P (levels ++ levels') (bits ++ bits') (frames ++ frames') R := by
  intro s rest hp hs
  obtain ⟨t, run₁, bits₁, frames₁, hq, ht⟩ :=
    first s (samples levels' ++ rest) hp (by rw [hs, samples_append, List.append_assoc])
  obtain ⟨u, run₂, bits₂, frames₂, hr, hu⟩ := second t rest hq ht
  refine ⟨u, ?_, ?_, ?_, hr, hu⟩
  · rw [List.length_append, run_add run₁, run₂]
  · rw [List.length_append, outputs_add run₁, bitsOf_append, bits₁, bits₂]
  · rw [List.length_append, outputs_add run₁, framesOf_append, frames₁, frames₂]

/-- One sample, whose operation is chosen. -/
theorem Decodes.of_chosen {P Q : State → Prop} {l : Bool} {bit : Option Bool} {frame : Option Memory}
    (h : ∀ s, P s → s.present.pins = Pins.sample l → ∃ i u, Chosen s.present i ∧ exec i s.present = .next u ∧
      u.stream = s.present.stream ∧ u.out.bit = bit ∧ u.out.frame = frame ∧ (step s = .next u → Q u)) :
    Decodes P [l] bit.toList frame.toList Q := by
  intro s rest hp hs
  have presented := s.present_cons (Pins.sample l) rest hs
  have pins : s.present.pins = Pins.sample l := by rw [presented]
  obtain ⟨i, u, chosen, meaning, stream, rfl, rfl, post⟩ := h s hp pins
  have active : s.present.active = true := by simp [State.active, pins, Pins.sample]
  have hstep : step s = .next u := (step_of_chosen active chosen).trans meaning
  refine ⟨u, run_succ hstep 0, ?_, ?_, post hstep, stream.trans (by rw [presented])⟩
  · cases hb : u.out.bit <;> simp [outputs_succ hstep 0, bitsOf, hb]
  · cases hf : u.out.frame <;> simp [outputs_succ hstep 0, framesOf, hf]

/-- A wait of one level after another, `d` counting the samples. -/
theorem decodes_levels {P : Nat → State → Prop} {levels : List Bool} {d : Nat}
    (h : ∀ l ∈ levels, ∀ m, m < d + levels.length → Decodes (P m) [l] [] [] (P (m + 1))) :
    Decodes (P d) levels [] [] (P (d + levels.length)) := by
  induction levels generalizing d with
  | nil => exact Decodes.nil (P d)
  | cons l levels ih =>
    rw [List.length_cons] at h ⊢
    have first := h l List.mem_cons_self d (by omega)
    have others : Decodes (P (d + 1)) levels [] [] (P (d + 1 + levels.length)) :=
      ih fun l' hl' m hm => h l' (List.mem_cons_of_mem l hl') m (by omega)
    rw [Nat.add_comm levels.length, ← Nat.add_assoc]
    exact first.append others

/-! ## The record of a self-clocking core -/

/-- The registers that time a self-clocking Message: the Decoder State, the tick, the number `d` of samples since the last
recorded change, and the level sampled last. -/
structure ScTiming (st : DecoderState) (tick d : Nat) (lastlevel : Bool) (s : State) : Prop where
  variant : s.variant = .sc
  state : s.state = st
  ticklength : s.ticklength = tick
  sampleIndex : s.sampleIndex = s.lastchange + d
  lastlevel : s.lastlevel = lastlevel

/-- A self-clocking core between Messages. -/
def ScQuiet (s : State) : Prop :=
  Invariants s ∧ s.variant = .sc ∧ s.state = .quiet

/-- Timed as `ScTiming` says, with the invariants, and with the bits `bs` of the Message in the Frame Assembler. -/
def Receiving (st : DecoderState) (tick d : Nat) (lastlevel : Bool) (bs : List Bool) (s : State) : Prop :=
  ScTiming st tick d lastlevel s ∧ Invariants s ∧ Holds bs s

section
variable {st st' : DecoderState} {tick tick' d d' : Nat} {lv lv' l : Bool} {bs : List Bool} {s u : State}

theorem ScTiming.present (h : ScTiming st tick d lv s) : ScTiming st tick d lv s.present := by
  obtain ⟨variant, state, ticklength, sampleIndex, lastlevel⟩ := h
  exact ⟨by simpa, by simpa, by simpa, by simpa, by simpa⟩

theorem ScTiming.elapsed (h : ScTiming st tick d lv s) : s.elapsed = d + 1 := by
  have index := h.sampleIndex
  rw [s.elapsed_eq (by omega)]
  omega

theorem ScTiming.beginSample (h : ScTiming st tick d lv s) : ScTiming st tick (d + 1) lv s.beginSample := by
  obtain ⟨variant, state, ticklength, sampleIndex, lastlevel⟩ := h
  exact ⟨variant, state, ticklength, congrArg (· + 1) sampleIndex, lastlevel⟩

/-- A sample within a Message: of the registers that time it the operation decides, of the rest the invariants (O36, O51). -/
theorem Receiving.of_chosen {bit : Option Bool} (hst' : st' ≠ .quiet)
    (h : ∀ s, ScTiming st tick d lv s → s.pins = Pins.sample l → ∃ i u, Chosen s i ∧ exec i s = .next u ∧
      u.stream = s.stream ∧ u.out.bit = bit ∧ u.out.frame = none ∧ ScTiming st' tick' d' lv' u) :
    Decodes (Receiving st tick d lv bs) [l] bit.toList []
      (Receiving st' tick' d' lv' (bs ++ bit.toList)) := by
  refine Decodes.of_chosen (frame := none) fun s ⟨timing, invariants, held⟩ pins => ?_
  obtain ⟨i, u, chosen, meaning, stream, rfl, frame, timing'⟩ := h s.present timing.present pins
  refine ⟨i, u, chosen, meaning, stream, rfl, frame, fun hstep => ?_⟩
  have held' := bitsPackedMostSignificantFirst s u bs invariants held hstep
  rw [if_neg (timing'.state ▸ hst')] at held'
  exact ⟨timing', invariantsKeptByEveryStep s u invariants hstep, held'⟩

/-- A sample that only counts. -/
theorem Receiving.of_waiting (hst : st ≠ .quiet)
    (h : ∀ s, ScTiming st tick d lv s → s.pins = Pins.sample l → ∃ i, Chosen s i ∧ exec i s = .next s.beginSample) :
    Decodes (Receiving st tick d lv bs) [l] [] [] (Receiving st tick (d + 1) lv bs) := by
  have waits := Receiving.of_chosen (bs := bs) (bit := none) hst fun s timing pins => by
    obtain ⟨i, chosen, meaning⟩ := h s timing pins
    exact ⟨i, _, chosen, meaning, rfl, rfl, rfl, timing.beginSample⟩
  rwa [Option.toList_none, List.append_nil] at waits

/-- A sample that writes nothing but the level sampled and the Decoder State. -/
theorem Receiving.of_moving (hst' : st' ≠ .quiet)
    (h : ∀ s, ScTiming st tick d lv s → s.pins = Pins.sample l → ∃ i u, Chosen s i ∧ exec i s = .next u ∧
      u = (s.beginSample.setLastlevel lv').goto st') :
    Decodes (Receiving st tick d lv bs) [l] [] [] (Receiving st' tick (d + 1) lv' bs) := by
  have moves := Receiving.of_chosen (bs := bs) (bit := none) hst' fun s timing pins => by
    obtain ⟨i, u, chosen, meaning, rfl⟩ := h s timing pins
    have counted := timing.beginSample
    exact ⟨i, _, chosen, meaning, rfl, rfl, rfl, counted.variant, rfl, counted.ticklength, counted.sampleIndex, rfl⟩
  rwa [Option.toList_none, List.append_nil] at moves

/-- A sample that records a change and pushes a bit. -/
theorem Receiving.of_edge {b : Bool} (hst' : st' ≠ .quiet)
    (h : ∀ s, ScTiming st tick d lv s → s.pins = Pins.sample l → ∃ i, Chosen s i ∧
      exec i s = .next (afterEdge s tick' b st')) :
    Decodes (Receiving st tick d lv bs) [l] [b] [] (Receiving st' tick' 0 lv (bs ++ [b])) := by
  refine Receiving.of_chosen (bit := some b) hst' fun s timing pins => ?_
  obtain ⟨i, chosen, meaning⟩ := h s timing pins
  obtain ⟨state, sampleIndex, lastchange, ⟨bit, -⟩, frame, variant, lastlevel, -, stream⟩ :=
    edgeEffect_afterEdge s tick' b st'
  exact ⟨i, _, chosen, meaning, stream, bit, frame, variant.trans timing.variant, state, afterEdge_ticklength s tick' b st',
    sampleIndex.trans lastchange.symm, lastlevel.trans timing.lastlevel⟩

/-! ## Each operation of the self-clocking Demodulator as a piece -/

theorem rst_of_sample (pins : s.pins = Pins.sample l) : s.pins.rst = false := by
  rw [pins]
  rfl

theorem level_of_sample (pins : s.pins = Pins.sample l) : s.pins.level = l := by
  rw [pins]
  rfl

/-- `Q_RISE_SC`: a Message begins, nothing is held. -/
theorem decodes_quiet_rise :
    Decodes ScQuiet [true] [] []
      (Receiving .firstmark 0 0 false []) := by
  refine Decodes.of_chosen (bit := none) (frame := none) fun s ⟨invariants, hv, hs⟩ pins => ?_
  obtain ⟨lastchange, ticklength, lastlevel, acc, count, bytes⟩ :=
    (invariants_quiet_iff (s.present_state.trans hs)).mp ((invariants_present_iff s).mpr invariants)
  have hv' := s.present_variant.trans hv
  refine ⟨.qRiseSc, _, .qRiseSc (rst_of_sample pins) hv' (s.present_state.trans hs) (level_of_sample pins), rfl, rfl, rfl,
    rfl, fun hstep => ⟨⟨hv', rfl, ticklength, lastchange.symm, lastlevel⟩,
      invariantsKeptByEveryStep s _ invariants hstep, ?_⟩⟩
  exact (holds_nil_iff _).mpr ⟨bytes, congrArg BitVec.toNat count, congrArg BitVec.toNat acc⟩

/-- `F_HOLD`. -/
theorem decodes_firstmark_high (n : Nat) :
    Decodes (Receiving .firstmark tick d lv bs) (List.replicate n true) [] []
      (Receiving .firstmark tick (d + n) lv bs) := by
  have waits := decodes_levels (P := fun m => Receiving .firstmark tick m lv bs) (levels := List.replicate n true) (d := d)
    fun l hl m _ => Receiving.of_waiting (by decide) fun s timing pins =>
      ⟨_, .fHold (rst_of_sample pins) timing.variant timing.state
        ((level_of_sample pins).trans (List.eq_of_mem_replicate hl)), rfl⟩
  rwa [List.length_replicate] at waits

/-- `F_FALL`: the tick is the length of the first pulse. -/
theorem decodes_firstmark_fall :
    Decodes (Receiving .firstmark tick d lv bs) [false] [true] [] (Receiving .inmessage (d + 1) 0 lv (bs ++ [true])) :=
  Receiving.of_edge (by decide) fun s timing pins =>
    ⟨_, .fFall (rst_of_sample pins) timing.variant timing.state (level_of_sample pins),
      timing.elapsed ▸ exec_fFall_eq_afterEdge s⟩

/-- `I_WAIT`: less than half a tick, whatever the levels. -/
theorem decodes_inmessage_wait {levels : List Bool} (h : 2 * (d + levels.length) < tick) :
    Decodes (Receiving .inmessage tick d lv bs) levels [] [] (Receiving .inmessage tick (d + levels.length) lv bs) :=
  decodes_levels (P := fun m => Receiving .inmessage tick m lv bs) fun l _ m hm =>
    Receiving.of_waiting (by decide) fun s timing pins =>
      ⟨_, .iWait (rst_of_sample pins) timing.variant timing.state (by rw [timing.ticklength]; omega)
        (by rw [timing.ticklength, timing.elapsed]; omega), rfl⟩

/-- `I_SAMPLE`. -/
theorem decodes_inmessage_sample (known : tick ≠ 0) (h : tick ≤ 2 * (d + 1)) :
    Decodes (Receiving .inmessage tick d lv bs) [l] [] [] (Receiving .needchange tick (d + 1) l bs) :=
  Receiving.of_moving (by decide) fun s timing pins =>
    ⟨_, _, .iSample (rst_of_sample pins) timing.variant timing.state (by rwa [timing.ticklength])
      (by rwa [timing.ticklength, timing.elapsed]), rfl, by rw [level_of_sample pins]⟩

/-- `N_WAIT`: no transition, at most two ticks. -/
theorem decodes_needchange_hold (n : Nat) (h : d + n ≤ 2 * tick) :
    Decodes (Receiving .needchange tick d lv bs) (List.replicate n lv) [] []
      (Receiving .needchange tick (d + n) lv bs) := by
  have waits := decodes_levels (P := fun m => Receiving .needchange tick m lv bs) (levels := List.replicate n lv) (d := d)
    fun l hl m hm => Receiving.of_waiting (by decide) fun s timing pins => by
      rw [List.length_replicate] at hm
      exact ⟨_, .nWait (rst_of_sample pins) timing.variant timing.state (by rw [timing.ticklength]; omega)
        (by rw [timing.ticklength, timing.elapsed]; omega)
        ((level_of_sample pins).trans ((List.eq_of_mem_replicate hl).trans timing.lastlevel.symm)), rfl⟩
  rwa [List.length_replicate] at waits

/-- `N_EDGE`: a transition within two ticks is one bit, the new level. -/
theorem decodes_needchange_edge (known : tick ≠ 0) (h : d + 1 ≤ 2 * tick) (changed : l ≠ lv) :
    Decodes (Receiving .needchange tick d lv bs) [l] [l] [] (Receiving .tickwait tick 0 lv (bs ++ [l])) :=
  Receiving.of_edge (by decide) fun s timing pins =>
    ⟨_, .nEdge (rst_of_sample pins) timing.variant timing.state (by rwa [timing.ticklength])
      (by rwa [timing.ticklength, timing.elapsed]) (by rwa [level_of_sample pins, timing.lastlevel]),
      by rw [level_of_sample pins, ← timing.ticklength]; rfl⟩

/-- `N_TIMEOUT`: the first sample past two ticks. -/
theorem decodes_needchange_timeout (known : tick ≠ 0) (h : 2 * tick < d + 1) :
    Decodes (Receiving .needchange tick d lv bs) [l] [] [] (Receiving .abort tick (d + 1) lv bs) :=
  Receiving.of_moving (by decide) fun s timing pins =>
    ⟨_, _, .nTimeout (rst_of_sample pins) timing.variant timing.state (by rwa [timing.ticklength])
      (by rwa [timing.ticklength, timing.elapsed]), rfl, by rw [← timing.lastlevel]; rfl⟩

/-- `T_WAIT`: less than one and a half ticks, whatever the levels. -/
theorem decodes_tickwait_wait {levels : List Bool} (h : 2 * (d + levels.length) < 3 * tick) :
    Decodes (Receiving .tickwait tick d lv bs) levels [] [] (Receiving .tickwait tick (d + levels.length) lv bs) :=
  decodes_levels (P := fun m => Receiving .tickwait tick m lv bs) fun l _ m hm =>
    Receiving.of_waiting (by decide) fun s timing pins =>
      ⟨_, .tWait (rst_of_sample pins) timing.variant timing.state (by rw [timing.ticklength]; omega)
        (by rw [timing.ticklength, timing.elapsed]; omega), rfl⟩

/-- `T_SAMPLE`. -/
theorem decodes_tickwait_sample (known : tick ≠ 0) (h : 3 * tick ≤ 2 * (d + 1)) :
    Decodes (Receiving .tickwait tick d lv bs) [l] [] [] (Receiving .needchange tick (d + 1) l bs) :=
  Receiving.of_moving (by decide) fun s timing pins =>
    ⟨_, _, .tSample (rst_of_sample pins) timing.variant timing.state (by rwa [timing.ticklength])
      (by rwa [timing.ticklength, timing.elapsed]), rfl, by rw [level_of_sample pins]⟩

/-- `A_EMIT_SC` and `A_DROP_SC`: the completed bytes leave if they pass the validator, and the record is a reset one. -/
theorem decodes_abort :
    Decodes (Receiving .abort tick d lv bs) [l] [] (if frameOkSc (packBytes bs) = true then [packBytes bs] else [])
      (SameRecord · (State.resetWith .sc)) := by
  have frames : (if frameOkSc (packBytes bs) = true then [packBytes bs] else []) =
      (if frameOkSc (packBytes bs) = true then some (packBytes bs) else none).toList := by split <;> rfl
  rw [frames]
  refine Decodes.of_chosen (bit := none) fun s ⟨timing, _, held⟩ pins => ?_
  obtain ⟨hv, hs, -, -, -⟩ := timing.present
  have bytes : s.present.bytes = packBytes bs := by
    obtain ⟨bytes, -, -⟩ := held
    exact s.present_bytes.trans bytes
  have reset (i : Instr) (hi : i ∈ [Instr.aEmitDc, .aDropDc, .aEmitSc, .aDropSc]) {u : State}
      (hu : exec i s.present = .next u) : SameRecord u (State.resetWith .sc) := hv ▸ sameRecord_of_abortHandler hi hu
  rw [← bytes]
  split
  case isTrue valid =>
    exact ⟨_, _, .aEmitSc (rst_of_sample pins) hv hs valid, rfl, rfl, rfl, rfl, fun _ => reset .aEmitSc (by decide) rfl⟩
  case isFalse valid =>
    exact ⟨_, _, .aDropSc (rst_of_sample pins) hv hs (Bool.eq_false_iff.mpr valid), rfl, rfl, rfl, rfl,
      fun _ => reset .aDropSc (by decide) rfl⟩

end

/-! ## The Message

Its tick is `n + 1`: the transition itself is the first sample of its half cell, so `n` samples of that half cell follow. -/

section
variable {n : Nat} {lv : Bool} {bs : List Bool}

/-- From the end of the first pulse to the end of the low half cell: the sample at half a tick is low. -/
theorem decodes_first_low (hn : 1 ≤ n) :
    Decodes (Receiving .inmessage (n + 1) 0 lv bs) (List.replicate n false) [] []
      (Receiving .needchange (n + 1) n false bs) := by
  obtain ⟨k, j, hk, early, late⟩ : ∃ k j, n = k + (1 + j) ∧ 2 * k < n + 1 ∧ n + 1 ≤ 2 * (k + 1) :=
    ⟨n / 2, n - 1 - n / 2, by omega, by omega, by omega⟩
  have wait : Decodes (Receiving .inmessage (n + 1) 0 lv bs) (List.replicate k false) [] []
      (Receiving .inmessage (n + 1) k lv bs) := by
    simpa using decodes_inmessage_wait (d := 0) (levels := List.replicate k false) (by simpa using early)
  have sample := decodes_inmessage_sample (lv := lv) (l := false) (bs := bs) n.succ_ne_zero late
  have hold := decodes_needchange_hold (lv := false) (bs := bs) (d := k + 1) (tick := n + 1) j (by omega)
  have whole := wait.append (sample.append hold)
  rwa [Nat.add_assoc, ← hk, ← List.replicate_one, ← List.replicate_add, ← List.replicate_add, ← hk] at whole

/-- From a decoded transition through the rest of its half cell and the next one: the sample at one and a half ticks lies in
the latter, and no transition comes after it. -/
theorem decodes_half_cells (hn : 1 ≤ n) (b l : Bool) :
    Decodes (Receiving .tickwait (n + 1) 0 lv bs) (List.replicate n b ++ List.replicate (n + 1) l) [] []
      (Receiving .needchange (n + 1) (2 * n + 1) l bs) := by
  obtain ⟨k, j, hk, early, late⟩ :
      ∃ k j, n + 1 = k + (1 + j) ∧ 2 * (n + k) < 3 * (n + 1) ∧ 3 * (n + 1) ≤ 2 * (n + k + 1) :=
    ⟨n / 2 + 1, n - 1 - n / 2, by omega, by omega, by omega⟩
  have wait : Decodes (Receiving .tickwait (n + 1) 0 lv bs) (List.replicate n b ++ List.replicate k l) [] []
      (Receiving .tickwait (n + 1) (n + k) lv bs) := by
    simpa using decodes_tickwait_wait (d := 0) (levels := List.replicate n b ++ List.replicate k l) (by simpa using early)
  have sample := decodes_tickwait_sample (lv := lv) (l := l) (bs := bs) n.succ_ne_zero late
  have hold := decodes_needchange_hold (lv := l) (bs := bs) (d := n + k + 1) (tick := n + 1) j (by omega)
  have whole := wait.append (sample.append hold)
  have count : n + k + 1 + j = 2 * n + 1 := by omega
  rwa [count, ← List.replicate_one, ← List.replicate_add, List.append_assoc, ← List.replicate_add, ← hk] at whole

/-- The bits of the cells behind a decoded transition to the level `b`, through the timeout. -/
theorem decodes_cells (hn : 1 ≤ n) (bits : List Bool) (b : Bool) :
    Decodes (Receiving .tickwait (n + 1) 0 lv bs)
      (List.replicate n b ++ bits.flatMap (manchCell (n + 1)) ++ List.replicate (n + 3) false) bits []
      (Receiving .abort (n + 1) (2 * n + 3) false (bs ++ bits)) := by
  induction bits generalizing b lv bs with
  | nil =>
    have hold := decodes_needchange_hold (lv := false) (bs := bs) (d := 2 * n + 1) (tick := n + 1) 1 (by omega)
    have timeout := decodes_needchange_timeout (lv := false) (l := false) (bs := bs) (d := 2 * n + 2) (tick := n + 1)
      n.succ_ne_zero (by omega)
    have whole := (decodes_half_cells (lv := lv) (bs := bs) hn b false).append (hold.append timeout)
    simpa [List.replicate_succ'] using whole
  | cons c bits ih =>
    have edge := decodes_needchange_edge (lv := !c) (l := c) (bs := bs) (d := 2 * n + 1) (tick := n + 1) n.succ_ne_zero
      (by omega) (by simp)
    have cell := (decodes_half_cells (lv := lv) (bs := bs) hn b (!c)).append edge
    have whole := cell.append (ih (lv := !c) (bs := bs ++ [c]) c)
    simpa [manchCell, List.replicate_succ (a := c)] using whole

/-- The Message without its last sample. -/
theorem decodes_message (hn : 1 ≤ n) (bits : List Bool) :
    Decodes ScQuiet (scLevels (n + 1) (true :: bits) ++ List.replicate (n + 3) false)
      (true :: true :: bits) [] (Receiving .abort (n + 1) (2 * n + 3) false (true :: true :: bits)) := by
  have pulse : Decodes ScQuiet (List.replicate (n + 1) true) [] [] (Receiving .firstmark 0 n false []) := by
    simpa [List.replicate_succ] using decodes_quiet_rise.append (decodes_firstmark_high n)
  have fall : Decodes (Receiving .firstmark 0 n false []) [false] [true] []
      (Receiving .inmessage (n + 1) 0 false [true]) :=
    decodes_firstmark_fall
  have edge : Decodes (Receiving .needchange (n + 1) n false [true]) [true] [true] []
      (Receiving .tickwait (n + 1) 0 false [true, true]) :=
    decodes_needchange_edge n.succ_ne_zero (by omega) (by decide)
  have first := pulse.append (fall.append ((decodes_first_low hn).append edge))
  have whole := first.append (decodes_cells hn bits true)
  simpa [scLevels, manchCell, List.replicate_succ] using whole

end

/-- Settles O58: the Message through the timeout, and the `ABORT` sample behind it. -/
theorem selfClockingMessageDecodes : Obligations.SelfClockingMessageDecodes := by
  intro t bits s rest ht invariants hv hs hstream
  obtain ⟨n, rfl⟩ : ∃ n, t = n + 1 := ⟨t - 1, by omega⟩
  have message := decodes_message (n := n) (by omega) bits
  have low : List.replicate (n + 1 + 3) false = List.replicate (n + 3) false ++ [false] := List.replicate_succ'
  rw [low, ← List.append_assoc] at hstream
  obtain ⟨v, -, -, frames, -, -⟩ :=
    message s (samples [false] ++ rest) ⟨invariants, hv, hs⟩ (by rw [hstream, samples_append, List.append_assoc])
  obtain ⟨u, run, bits', frames', record, stream⟩ :=
    message.append (decodes_abort (l := false)) s rest ⟨invariants, hv, hs⟩ hstream
  rw [List.append_nil] at bits'
  rw [List.nil_append] at frames'
  have length : (scLevels (n + 1) (true :: bits) ++ List.replicate (n + 3) false ++ [false]).length =
      (scLevels (n + 1) (true :: bits)).length + (n + 1 + 3) := by simp
  have length' : (scLevels (n + 1) (true :: bits) ++ List.replicate (n + 3) false).length =
      (scLevels (n + 1) (true :: bits)).length + (n + 1 + 3) - 1 := by simp
  rw [length] at run bits' frames'
  rw [length'] at frames
  exact ⟨bits', frames, frames', u, run, record, stream⟩

end Sys2Proof.Safety
end

section
/-! PROOFS. The step itself (rules R90, R91, R95), the operations of `QUIET`, the waiting ones and `RESET` with their words and
their whole effect, and that no step stops (rule R98). -/

namespace Sys2Proof.Safety

open Sys2Proof.Machine

/-! ## How a step comes to its operation -/

/-- What the decoder answers on the selector word of a state (rule R70). -/
theorem decode_selectorWord (s : State) : decode s.selectorWord = s.selector.select :=
  decode_word s.selector

theorem NextSample.active {s : State} {l : Bool} (h : NextSample s l) : s.present.active = true := by
  obtain ⟨-, valid, -⟩ := h
  simp [State.active, valid]

/-- Settles O7. -/
theorem stepRunsTheSelectedOperation : Obligations.StepRunsTheSelectedOperation :=
  fun s i ha _ hi => step_active s i (by simpa [State.active] using ha) ((decode_selectorWord s.present).symm.trans hi)

/-- Settles O8: without a reset and without a sample the clock edge is inactive. -/
theorem cycleWithoutSampleDoesNothing : Obligations.CycleWithoutSampleDoesNothing := by
  intro s p rest hstream hr hvalid
  have presented := s.present_cons p rest hstream
  have inactive : s.present.active = false := by simp [State.active, presented, hr, hvalid]
  rw [step_inactive s inactive, presented]
  rfl

/-- Settles O10: `RESET` is chosen by the pin `rst` alone, and what it leaves is the record of a reset. -/
theorem hardResetBeatsEverything : Obligations.HardResetBeatsEverything := by
  intro s p rest hstream hr
  have presented := s.present_cons p rest hstream
  have reset : s.present.pins.rst = true := by rw [presented, hr]
  have active : s.present.active = true := by simp [State.active, reset]
  calc step s = exec .reset s.present := step_of_chosen active (.reset reset)
    _ = .next s.present.hardReset := rfl
    _ = .next { State.resetWith p.cfgVariant with pins := p, stream := rest } := by
      rw [State.hardReset_eq, presented]

/-- Settles O27: in `QUIET` the operation is chosen by the level and, at a high level, by the variant. -/
theorem quietHandler : Obligations.QuietHandler := by
  intro s l sample hs
  have active := NextSample.active sample
  obtain ⟨hr, -, level⟩ := sample
  have quiet : s.present.state = .quiet := s.present_state.trans hs
  refine ⟨fun hl => ?_, fun hl hv => ?_, fun hl hv => ?_⟩
  · exact step_of_chosen active (.qIdle hr quiet (level.trans hl))
  · exact step_of_chosen active (.qRiseDc hr (s.present_variant.trans hv) quiet (level.trans hl))
  · exact step_of_chosen active (.qRiseSc hr (s.present_variant.trans hv) quiet (level.trans hl))

/-! ## Words and effects of single operations -/

/-- Settles O13: the words are those of O1, and each of the eight is `beginSample`. -/
theorem waitingOperationsOnlyCount : Obligations.WaitingOperationsOnlyCount := by
  have row (i : Instr) (wf : i.wf = true) (w : SelWord) := selectorDecodesExactlyItsRow i w wf
  refine ⟨fun w => ⟨row .qIdle rfl w, row .mHold rfl w, row .sGuard rfl w, row .sHold rfl w, row .fHold rfl w,
    row .iWait rfl w, row .nWait rfl w, row .tWait rfl w⟩, fun i hi s => ?_⟩
  simp only [List.mem_cons, List.not_mem_nil, or_false] at hi
  obtain rfl | rfl | rfl | rfl | rfl | rfl | rfl | rfl := hi <;> rfl

/-- Settles O14. -/
theorem messageBegins : Obligations.MessageBegins :=
  ⟨fun w => ⟨selectorDecodesExactlyItsRow .qRiseDc w rfl, selectorDecodesExactlyItsRow .qRiseSc w rfl⟩,
    fun _ => ⟨rfl, rfl⟩⟩

/-- Settles O21. -/
theorem hardResetMakesFreshInstance : Obligations.HardResetMakesFreshInstance :=
  ⟨fun w => selectorDecodesExactlyItsRow .reset w rfl, fun s => congrArg Host.Outcome.next s.hardReset_eq⟩

/-! ## No step stops -/

/-- Every operation has a next state in every state: there is no fault (rule R98). -/
theorem exists_exec (i : Instr) (s : State) : ∃ t, exec i s = .next t := by
  cases i <;> exact ⟨_, rfl⟩

/-- The invariants keep the selector word out of the reserved space: the Decoder State is one of the variant's (I3), and in
the timing states the tick is known (I4). -/
theorem Invariants.exists_select {s : State} (h : Invariants s) (hr : s.pins.rst = false) :
    ∃ i, s.selector.select = .ok i := by
  obtain ⟨-, -, ⟨dcStates, scStates⟩, tick, -⟩ := h
  cases hv : s.variant with
  | dc => exact exists_select_of_dc hr hv (dcStates hv)
  | sc =>
    have timing (hs : s.state ∈ [DecoderState.inmessage, .needchange, .tickwait]) : ∃ i, s.selector.select = .ok i := by
      have known : 1 ≤ s.ticklength := tick (List.mem_cons_of_mem _ (List.mem_cons_of_mem _ hs))
      exact exists_select_of_calibrated hr hv hs (s.flagK_iff.mpr (Nat.ne_of_gt known))
    have states := scStates hv
    cases hs : s.state with
    | mark | space => simp [hs] at states
    | quiet | firstmark | abort => exact exists_select_of_sc hr hv (by simp [State.selector, hs])
    | inmessage | needchange | tickwait => exact timing (by simp [hs])

/-- Settles O38: an inactive edge has a next state, and on an active one the operation selected has one. -/
theorem noStepStops : Obligations.NoStepStops := by
  intro s hs
  cases ha : s.present.active with
  | false => exact ⟨_, step_inactive s ha⟩
  | true =>
    have selected : ∃ i, s.present.selector.select = .ok i := by
      cases hr : s.present.pins.rst with
      | true => exact ⟨.reset, select_of_chosen (.reset hr)⟩
      | false => exact Invariants.exists_select ((invariants_present_iff s).mpr hs) hr
    obtain ⟨i, hi⟩ := selected
    rw [step_active s i ha hi]
    exact exists_exec i s.present

/-- A run from a state with the invariants goes on and keeps them. -/
theorem Invariants.exists_run {s : State} (h : Invariants s) (n : Nat) : ∃ t, run n s = .next t ∧ Invariants t := by
  induction n generalizing s with
  | zero => exact ⟨s, rfl, h⟩
  | succ n ih =>
    obtain ⟨u, hu⟩ := noStepStops s h
    rw [run_succ hu]
    exact ih (invariantsKeptByEveryStep s u h hu)

/-- Settles O39: the record of a hard reset has the invariants. -/
theorem everyRunFromResetGoesOn : Obligations.EveryRunFromResetGoesOn := by
  intro v ps n
  have fresh : SameRecord { State.resetWith v with stream := ps } (State.resetWith v) :=
    ⟨rfl, rfl, rfl, rfl, rfl, rfl, rfl, rfl, rfl⟩
  exact Invariants.exists_run (invariants_of_reset fresh) n

end Sys2Proof.Safety
end

section
/-! PROOFS. Pulses of the duration-coded variant: the decision for one pulse and its scale (rules R96 (h), R102, R103), the
operations of the variant as pieces of a level stream, and the Message up to its last falling edge (rule R110). -/

namespace Sys2Proof.Safety

open Sys2Proof.Machine

/-! ## The decision for one pulse -/

/-- On the falling edge of a pulse with the tick known, flag `G` decides (rules R102, R103). -/
theorem chosen_of_pulse {s : State} (hr : s.pins.rst = false) (hv : s.variant = .dc) (hs : s.state = .mark)
    (hl : s.pins.level = false) (hk : s.ticklength ≠ 0) :
    Chosen s (if 3 * s.ticklength < 2 * s.elapsed then .mFallLong else .mFallShort) := by
  split
  case isTrue long => exact .mFallLong hr hv hs hl hk long
  case isFalse short => exact .mFallShort hr hv hs hl hk (Nat.le_of_not_lt short)

/-- Both decisions push their bit on the way to `SPACE` and keep the tick. -/
theorem exec_pulse (P : Prop) [Decidable P] (s : State) :
    exec (if P then .mFallLong else .mFallShort) s = .next (afterEdge s s.ticklength (decide P) .space) := by
  by_cases long : P
  · rw [if_pos long, decide_eq_true long]
    rfl
  · rw [if_neg long, decide_eq_false long]
    rfl

/-- The comparison of rule R31, flag `G`, for a pulse and a tick in the ratio of another pair. -/
theorem long_scaled_iff {k : Nat} (hk : 0 < k) (t d : Nat) : 3 * (k * t) < 2 * (k * d) ↔ 3 * t < 2 * d := by
  rw [Nat.mul_left_comm 3, Nat.mul_left_comm 2, Nat.mul_lt_mul_left hk]

/-- The step on the falling edge of a pulse, in numbers: the operation selected and the bit pushed. -/
theorem step_pulse {s : State} (sample : NextSample s false) (hv : s.variant = .dc) (hs : s.state = .mark)
    (origin : s.lastchange ≤ s.sampleIndex) (hk : s.ticklength ≠ 0) :
    let long := 3 * s.ticklength < 2 * (s.sampleIndex + 1 - s.lastchange)
    decode s.present.selectorWord = .ok (if long then .mFallLong else .mFallShort) ∧
      ∃ u, step s = .next u ∧ u.out.bit = some (decide long) := by
  intro long
  have active := NextSample.active sample
  obtain ⟨hr, -, level⟩ := sample
  have elapsed : s.present.elapsed = s.sampleIndex + 1 - s.lastchange := by
    rw [State.elapsed_eq _ (by simp; omega), s.present_sampleIndex, s.present_lastchange]
  have chosen := chosen_of_pulse hr (s.present_variant.trans hv) (s.present_state.trans hs) level
    (s.present_ticklength.symm ▸ hk)
  rw [elapsed, s.present_ticklength] at chosen
  refine ⟨(decode_selectorWord s.present).trans (select_of_chosen chosen), _,
    (step_of_chosen active chosen).trans (exec_pulse long s.present), ?_⟩
  obtain ⟨bit, -⟩ := EdgeEffect.bitPushed (edgeEffect_afterEdge s.present s.present.ticklength (decide long) .space)
  exact bit

/-- Settles O56: the other core compares the same two numbers, each `k` times as large. -/
theorem pulseDecisionIsScaleFree : Obligations.PulseDecisionIsScaleFree := by
  intro s t k hk sampleS sampleT hvS hvT hsS hsT originS originT known d tick pulse
  have knownT : t.ticklength ≠ 0 := by
    rw [tick]
    exact Nat.mul_ne_zero (Nat.ne_of_gt hk) known
  obtain ⟨selectedS, u, hu, bitS⟩ := step_pulse sampleS hvS hsS originS known
  obtain ⟨selectedT, v, hv, bitT⟩ := step_pulse sampleT hvT hsT originT knownT
  simp only [tick, pulse, long_scaled_iff hk] at selectedT bitT
  exact ⟨_, u, v, selectedS, selectedT, rfl, hu, hv, bitS, bitT.trans bitS.symm⟩

/-! ## The record of a duration-coded core -/

/-- The registers that time a duration-coded Message: the Decoder State, the tick, and the number `d` of samples since the
last recorded change. -/
structure DcTiming (st : DecoderState) (tick d : Nat) (s : State) : Prop where
  variant : s.variant = .dc
  state : s.state = st
  ticklength : s.ticklength = tick
  sampleIndex : s.sampleIndex = s.lastchange + d

/-- A duration-coded core between Messages. -/
def DcQuiet (s : State) : Prop :=
  Invariants s ∧ s.variant = .dc ∧ s.state = .quiet

/-- Timed as `DcTiming` says, with the invariants, and with the bits `bs` of the Message in the Frame Assembler. -/
def DcReceiving (st : DecoderState) (tick d : Nat) (bs : List Bool) (s : State) : Prop :=
  DcTiming st tick d s ∧ Invariants s ∧ Holds bs s

section
variable {st st' : DecoderState} {tick tick' d d' : Nat} {l : Bool} {bs : List Bool} {s : State}

theorem DcTiming.present (h : DcTiming st tick d s) : DcTiming st tick d s.present := by
  obtain ⟨variant, state, ticklength, sampleIndex⟩ := h
  exact ⟨by simpa, by simpa, by simpa, by simpa⟩

theorem DcTiming.elapsed (h : DcTiming st tick d s) : s.elapsed = d + 1 := by
  have index := h.sampleIndex
  rw [s.elapsed_eq (by omega)]
  omega

theorem DcTiming.beginSample (h : DcTiming st tick d s) : DcTiming st tick (d + 1) s.beginSample := by
  obtain ⟨variant, state, ticklength, sampleIndex⟩ := h
  exact ⟨variant, state, ticklength, congrArg (· + 1) sampleIndex⟩

/-- A sample within a Message: of the registers that time it the operation decides, of the rest the invariants (O36, O51). -/
theorem DcReceiving.of_chosen {bit : Option Bool} (hst' : st' ≠ .quiet)
    (h : ∀ s, DcTiming st tick d s → s.pins = Pins.sample l → ∃ i u, Chosen s i ∧ exec i s = .next u ∧
      u.stream = s.stream ∧ u.out.bit = bit ∧ u.out.frame = none ∧ DcTiming st' tick' d' u) :
    Decodes (DcReceiving st tick d bs) [l] bit.toList [] (DcReceiving st' tick' d' (bs ++ bit.toList)) := by
  refine Decodes.of_chosen (frame := none) fun s ⟨timing, invariants, held⟩ pins => ?_
  obtain ⟨i, u, chosen, meaning, stream, rfl, frame, timing'⟩ := h s.present timing.present pins
  refine ⟨i, u, chosen, meaning, stream, rfl, frame, fun hstep => ?_⟩
  have held' := bitsPackedMostSignificantFirst s u bs invariants held hstep
  rw [if_neg (timing'.state ▸ hst')] at held'
  exact ⟨timing', invariantsKeptByEveryStep s u invariants hstep, held'⟩

/-- A sample that pushes nothing. -/
theorem DcReceiving.of_silent (hst' : st' ≠ .quiet)
    (h : ∀ s, DcTiming st tick d s → s.pins = Pins.sample l → ∃ i u, Chosen s i ∧ exec i s = .next u ∧
      u.stream = s.stream ∧ u.out = Out.none ∧ DcTiming st' tick' d' u) :
    Decodes (DcReceiving st tick d bs) [l] [] [] (DcReceiving st' tick' d' bs) := by
  have silent := DcReceiving.of_chosen (bs := bs) (bit := none) hst' fun s timing pins => by
    obtain ⟨i, u, chosen, meaning, stream, out, timing'⟩ := h s timing pins
    exact ⟨i, u, chosen, meaning, stream, congrArg Out.bit out, congrArg Out.frame out, timing'⟩
  rwa [Option.toList_none, List.append_nil] at silent

/-- The falling edge of a pulse: a change is recorded and a bit pushed. -/
theorem DcReceiving.of_edge {b : Bool}
    (h : ∀ s, DcTiming .mark tick d s → s.pins = Pins.sample l → ∃ i, Chosen s i ∧
      exec i s = .next (afterEdge s tick' b .space)) :
    Decodes (DcReceiving .mark tick d bs) [l] [b] [] (DcReceiving .space tick' 0 (bs ++ [b])) := by
  refine DcReceiving.of_chosen (bit := some b) (by decide) fun s timing pins => ?_
  obtain ⟨i, chosen, meaning⟩ := h s timing pins
  obtain ⟨state, sampleIndex, lastchange, ⟨bit, -⟩, frame, variant, -, -, stream⟩ :=
    edgeEffect_afterEdge s tick' b .space
  exact ⟨i, _, chosen, meaning, stream, bit, frame, variant.trans timing.variant, state,
    afterEdge_ticklength s tick' b .space, sampleIndex.trans lastchange.symm⟩

/-! ## Each operation of the duration-coded Demodulator as a piece -/

/-- `Q_RISE_DC`: a Message begins, nothing is held. -/
theorem decodes_dc_quiet_rise : Decodes DcQuiet [true] [] [] (DcReceiving .mark 0 0 []) := by
  refine Decodes.of_chosen (bit := none) (frame := none) fun s ⟨invariants, hv, hs⟩ pins => ?_
  have hs' := s.present_state.trans hs
  have hv' := s.present_variant.trans hv
  obtain ⟨lastchange, ticklength, -, acc, count, bytes⟩ :=
    (invariants_quiet_iff hs').mp ((invariants_present_iff s).mpr invariants)
  refine ⟨.qRiseDc, _, .qRiseDc (rst_of_sample pins) hv' hs' (level_of_sample pins), rfl, rfl, rfl, rfl,
    fun hstep => ⟨⟨hv', rfl, ticklength, lastchange.symm⟩, invariantsKeptByEveryStep s _ invariants hstep, ?_⟩⟩
  exact (holds_nil_iff _).mpr ⟨bytes, congrArg BitVec.toNat count, congrArg BitVec.toNat acc⟩

/-- `M_HOLD`. -/
theorem decodes_mark_high (n : Nat) :
    Decodes (DcReceiving .mark tick d bs) (List.replicate n true) [] [] (DcReceiving .mark tick (d + n) bs) := by
  have waits := decodes_levels (P := fun m => DcReceiving .mark tick m bs) (levels := List.replicate n true) (d := d)
    fun l hl m _ => DcReceiving.of_silent (by decide) fun _ timing pins =>
      ⟨_, _, .mHold (rst_of_sample pins) timing.variant timing.state
        ((level_of_sample pins).trans (List.eq_of_mem_replicate hl)), rfl, rfl, rfl, timing.beginSample⟩
  rwa [List.length_replicate] at waits

/-- `M_FALL_CAL`: the tick is the length of the first pulse. -/
theorem decodes_mark_calibrates :
    Decodes (DcReceiving .mark 0 d bs) [false] [false] [] (DcReceiving .space (d + 1) 0 (bs ++ [false])) :=
  DcReceiving.of_edge fun _ timing pins =>
    ⟨_, .mFallCal (rst_of_sample pins) timing.variant timing.state (level_of_sample pins) timing.ticklength,
      timing.elapsed ▸ rfl⟩

/-- `M_FALL_LONG` and `M_FALL_SHORT`: a pulse of `d + 1` samples. -/
theorem decodes_mark_falls (known : tick ≠ 0) :
    Decodes (DcReceiving .mark tick d bs) [false] [decide (2 * (d + 1) > 3 * tick)] []
      (DcReceiving .space tick 0 (bs ++ [decide (2 * (d + 1) > 3 * tick)])) := by
  refine DcReceiving.of_edge fun _ timing pins => ?_
  rw [← timing.elapsed, ← timing.ticklength]
  exact ⟨_, chosen_of_pulse (rst_of_sample pins) timing.variant timing.state (level_of_sample pins)
    (timing.ticklength ▸ known), exec_pulse _ _⟩

/-- `S_HOLD`: no more than 50 ticks. -/
theorem decodes_space_low (known : tick ≠ 0) (n : Nat) (h : d + n ≤ 50 * tick) :
    Decodes (DcReceiving .space tick d bs) (List.replicate n false) [] [] (DcReceiving .space tick (d + n) bs) := by
  have waits := decodes_levels (P := fun m => DcReceiving .space tick m bs) (levels := List.replicate n false) (d := d)
    fun l hl m hm => DcReceiving.of_silent (by decide) fun s timing pins => by
      rw [List.length_replicate] at hm
      exact ⟨_, _, .sHold (rst_of_sample pins) timing.variant timing.state
        ((level_of_sample pins).trans (List.eq_of_mem_replicate hl)) (by rwa [timing.ticklength])
        (by rw [timing.ticklength, timing.elapsed]; omega), rfl, rfl, rfl, timing.beginSample⟩
  rwa [List.length_replicate] at waits

/-- `S_RISE`: the next pulse begins, whatever the silence before it. -/
theorem decodes_space_rise :
    Decodes (DcReceiving .space tick d bs) [true] [] [] (DcReceiving .mark tick 0 bs) :=
  DcReceiving.of_silent (by decide) fun _ timing pins =>
    ⟨_, _, .sRise (rst_of_sample pins) timing.variant timing.state (level_of_sample pins), rfl, rfl, rfl,
      timing.variant, rfl, timing.ticklength, rfl⟩

/-! ## The Message up to its last falling edge -/

/-- The pulses behind one whose falling edge pushes `b`: each falling edge is the first sample of its gap, or the one low
sample at the end. -/
theorem decodes_pulses (known : tick ≠ 0) {P : State → Prop} {b : Bool} (pulses : List (Nat × Nat))
    (h : ∀ p ∈ pulses, 1 ≤ p.1 ∧ p.1 ≤ 50 * tick + 1 ∧ 1 ≤ p.2)
    (fall : Decodes P [false] [b] [] (DcReceiving .space tick 0 (bs ++ [b]))) :
    Decodes P ((pulses.flatMap fun p => List.replicate p.1 false ++ List.replicate p.2 true) ++ [false])
      (b :: pulses.map fun p => decide (2 * p.2 > 3 * tick)) []
      (DcReceiving .space tick 0 (bs ++ b :: pulses.map fun p => decide (2 * p.2 > 3 * tick))) := by
  induction pulses generalizing P b bs with
  | nil => exact fall
  | cons p pulses ih =>
    obtain ⟨⟨gapPos, gapShort, pulsePos⟩, others⟩ := List.forall_mem_cons.mp h
    obtain ⟨g, hg⟩ := Nat.exists_eq_add_of_le' gapPos
    obtain ⟨n, hn⟩ := Nat.exists_eq_add_of_le' pulsePos
    have gap := fall.append (decodes_space_low known (d := 0) g (by omega))
    have pulse := gap.append (decodes_space_rise.append (decodes_mark_high (d := 0) n))
    have whole := pulse.append (ih others (decodes_mark_falls known))
    simpa [hg, hn, List.replicate_succ] using whole

/-- Rule R110: the bits of the Message are in the Frame Assembler when its last pulse has ended. -/
theorem decodes_dc_message {t : Nat} (ht : 1 ≤ t) (pulses : List (Nat × Nat))
    (h : ∀ p ∈ pulses, 1 ≤ p.1 ∧ p.1 ≤ 50 * t + 1 ∧ 1 ≤ p.2) :
    Decodes DcQuiet (dcLevels t pulses ++ [false]) (dcBits t pulses) [] (DcReceiving .space t 0 (dcBits t pulses)) := by
  obtain ⟨n, rfl⟩ := Nat.exists_eq_add_of_le' ht
  have first : Decodes DcQuiet (List.replicate (n + 1) true) [] [] (DcReceiving .mark 0 n []) := by
    simpa [List.replicate_succ] using decodes_dc_quiet_rise.append (decodes_mark_high n)
  have others := decodes_pulses n.succ_ne_zero (bs := []) pulses h decodes_mark_calibrates
  simpa only [dcLevels, dcBits, List.nil_append, List.append_assoc] using first.append others

end

/-! ## Scaled Messages -/

/-- The bits of a Message depend on its pulses in their ratio to the tick, and not on its gaps. -/
theorem dcBits_scaled {k t : Nat} (hk : 0 < k) {pulses scaled : List (Nat × Nat)}
    (h : scaled.map Prod.snd = pulses.map fun p => k * p.2) : dcBits (k * t) scaled = dcBits t pulses := by
  have bits : scaled.map (fun p => decide (2 * p.2 > 3 * (k * t))) =
      (scaled.map Prod.snd).map fun n => decide (2 * n > 3 * (k * t)) := by simp
  rw [dcBits, dcBits, bits, h]
  simp [long_scaled_iff hk]

/-- Settles O59: both streams are Messages, and the second has the bits of the first. -/
theorem scaledMessagesPushTheSameBits : Obligations.ScaledMessagesPushTheSameBits := by
  intro k t pulses scaled s u rest rest' hk ht hpulses hscaled hmap hs hsv hsq hsStream hu huv huq huStream
  have scaledPulses : ∀ p ∈ scaled, 1 ≤ p.1 ∧ p.1 ≤ 50 * (k * t) + 1 ∧ 1 ≤ p.2 := by
    intro p hp
    obtain ⟨gapPos, gapShort⟩ := hscaled p hp
    have mem : p.2 ∈ pulses.map fun q => k * q.2 := hmap ▸ List.mem_map_of_mem hp
    obtain ⟨q, hq, length⟩ := List.mem_map.mp mem
    obtain ⟨-, -, pulsePos⟩ := hpulses q hq
    exact ⟨gapPos, gapShort, length ▸ Nat.mul_pos hk pulsePos⟩
  obtain ⟨-, -, bits, -⟩ := decodes_dc_message ht pulses hpulses s rest ⟨hs, hsv, hsq⟩ hsStream
  obtain ⟨-, -, bits', -⟩ :=
    decodes_dc_message (Nat.mul_pos hk ht) scaled scaledPulses u rest' ⟨hu, huv, huq⟩ huStream
  rw [List.length_append, List.length_singleton] at bits bits'
  exact ⟨bits, bits'.trans (dcBits_scaled hk hmap)⟩

end Sys2Proof.Safety
end

section
/-! PROOFS. The timer bounds of rules R105, R122, R124 and R127: what they say in each Decoder State, and that every clock edge
keeps them. -/

namespace Sys2Proof.Safety

open Sys2Proof.Machine

/-! ## What the bounds say in each Decoder State -/

theorem timersInBounds_of_untimed {s : State} (hs : s.state ∈ [DecoderState.quiet, .mark, .firstmark]) :
    TimersInBounds s := by
  simp only [List.mem_cons, List.not_mem_nil, or_false] at hs
  obtain hs | hs | hs := hs <;> simp [TimersInBounds, hs]

theorem timersInBounds_space_iff {s : State} (hs : s.state = .space) :
    TimersInBounds s ↔ s.sampleIndex ≤ s.lastchange + 50 * s.ticklength := by
  simp [TimersInBounds, hs]

theorem timersInBounds_inmessage_iff {s : State} (hs : s.state = .inmessage) :
    TimersInBounds s ↔ 2 * (s.sampleIndex - s.lastchange) < s.ticklength := by
  simp [TimersInBounds, hs]

theorem timersInBounds_needchange_iff {s : State} (hs : s.state = .needchange) :
    TimersInBounds s ↔ s.sampleIndex ≤ s.lastchange + 2 * s.ticklength := by
  simp [TimersInBounds, hs]

theorem timersInBounds_tickwait_iff {s : State} (hs : s.state = .tickwait) :
    TimersInBounds s ↔ 2 * (s.sampleIndex - s.lastchange) < 3 * s.ticklength := by
  simp [TimersInBounds, hs]

theorem timersInBounds_abort_dc_iff {s : State} (hv : s.variant = .dc) (hs : s.state = .abort) :
    TimersInBounds s ↔ s.sampleIndex = s.lastchange + 50 * s.ticklength + 1 := by
  simp [TimersInBounds, hv, hs]

theorem timersInBounds_abort_sc_iff {s : State} (hv : s.variant = .sc) (hs : s.state = .abort) :
    TimersInBounds s ↔ s.sampleIndex = s.lastchange + 2 * s.ticklength + 1 := by
  simp [TimersInBounds, hv, hs]

/-- The bounds are about the record alone, not about the pins. -/
theorem timersInBounds_present_iff (s : State) : TimersInBounds s.present ↔ TimersInBounds s := by
  simp [TimersInBounds]

/-! ## Each operation keeps the bounds -/

/-- A recorded change starts every timer at 0. -/
theorem timersInBounds_afterEdge (s : State) {tick : Nat} (known : 1 ≤ tick) (b : Bool) {target : DecoderState}
    (htarget : target ≠ .abort) : TimersInBounds (afterEdge s tick b target) := by
  have ticklength := afterEdge_ticklength s tick b target
  obtain ⟨state, sampleIndex, lastchange, -⟩ := edgeEffect_afterEdge s tick b target
  simp only [TimersInBounds, state, sampleIndex, lastchange, ticklength, htarget, false_implies, and_true]
  omega

/-- Rule R30: counted from the recorded change, the current sample has the index `d`. -/
theorem elapsed_add_lastchange {s : State} (h : I1 s) : s.elapsed + s.lastchange = s.sampleIndex + 1 := by
  rw [s.elapsed_eq (by omega)]
  omega

/-- Each operation, where it is chosen, keeps the bounds. A wait is chosen only while the sample counted is within the bound;
the sample that ends a wait, or fires a timeout, is the first one past it. -/
theorem timersInBounds_of_chosen {s u : State} {i : Instr} (hi : Chosen s i) (hs : Invariants s) (ht : TimersInBounds s)
    (h : exec i s = .next u) : TimersInBounds u := by
  have sample := elapsed_add_lastchange hs.i1
  have positive := s.elapsed_pos hs.i1
  cases hi with
  | reset | aEmitDc | aDropDc | aEmitSc | aDropSc | qRiseDc | qRiseSc | sRise =>
    obtain rfl := Host.Outcome.next.inj h
    exact timersInBounds_of_untimed (by simp)
  | qIdle _ hst | mHold _ _ hst | fHold _ _ hst =>
    obtain rfl := Host.Outcome.next.inj h
    exact timersInBounds_of_untimed (by simp [hst])
  | mFallCal =>
    obtain rfl := Host.Outcome.next.inj h
    exact timersInBounds_afterEdge s positive false (by decide)
  | fFall =>
    obtain rfl := Host.Outcome.next.inj ((exec_fFall_eq_afterEdge s).symm.trans h)
    exact timersInBounds_afterEdge s positive true (by decide)
  | mFallLong _ _ _ _ hk | mFallShort _ _ _ _ hk | nEdge _ _ _ hk =>
    obtain rfl := Host.Outcome.next.inj h
    exact timersInBounds_afterEdge s (Nat.one_le_iff_ne_zero.mpr hk) _ (by decide)
  | sGuard _ hv hst _ hk =>
    obtain ⟨-, known, -⟩ := (invariants_space_iff hv hst).mp hs
    omega
  | sHold _ _ hst _ _ hz =>
    obtain rfl := Host.Outcome.next.inj h
    have within : s.sampleIndex + 1 ≤ s.lastchange + 50 * s.ticklength := by omega
    exact (timersInBounds_space_iff (s := s.beginSample) hst).mpr within
  | iWait _ _ hst _ hh =>
    obtain rfl := Host.Outcome.next.inj h
    have within : 2 * (s.sampleIndex + 1 - s.lastchange) < s.ticklength := by omega
    exact (timersInBounds_inmessage_iff (s := s.beginSample) hst).mpr within
  | nWait _ _ hst _ ho =>
    obtain rfl := Host.Outcome.next.inj h
    have within : s.sampleIndex + 1 ≤ s.lastchange + 2 * s.ticklength := by omega
    exact (timersInBounds_needchange_iff (s := s.beginSample) hst).mpr within
  | tWait _ _ hst _ hw =>
    obtain rfl := Host.Outcome.next.inj h
    have within : 2 * (s.sampleIndex + 1 - s.lastchange) < 3 * s.ticklength := by omega
    exact (timersInBounds_tickwait_iff (s := s.beginSample) hst).mpr within
  | iSample _ _ hst hk =>
    obtain rfl := Host.Outcome.next.inj h
    have before := (timersInBounds_inmessage_iff hst).mp ht
    have within : s.sampleIndex + 1 ≤ s.lastchange + 2 * s.ticklength := by omega
    exact Iff.mpr (timersInBounds_needchange_iff rfl) within
  | tSample _ _ hst hk =>
    obtain rfl := Host.Outcome.next.inj h
    have before := (timersInBounds_tickwait_iff hst).mp ht
    have within : s.sampleIndex + 1 ≤ s.lastchange + 2 * s.ticklength := by omega
    exact Iff.mpr (timersInBounds_needchange_iff rfl) within
  | sSilence _ hv hst _ _ hz =>
    obtain rfl := Host.Outcome.next.inj h
    have before := (timersInBounds_space_iff hst).mp ht
    have first : s.sampleIndex + 1 = s.lastchange + 50 * s.ticklength + 1 := by omega
    exact Iff.mpr (timersInBounds_abort_dc_iff hv rfl) first
  | nTimeout _ hv hst _ ho =>
    obtain rfl := Host.Outcome.next.inj h
    have before := (timersInBounds_needchange_iff hst).mp ht
    have first : s.sampleIndex + 1 = s.lastchange + 2 * s.ticklength + 1 := by omega
    exact Iff.mpr (timersInBounds_abort_sc_iff hv rfl) first

/-- Settles O37, by the operation chosen on the clock edge. -/
theorem timersKeptInBounds : Obligations.TimersKeptInBounds := by
  intro s t hs ht h
  have ht' := (timersInBounds_present_iff s).mpr ht
  obtain ⟨-, rfl⟩ | ⟨-, i, hi, hu⟩ := step_cases h
  · exact ht'
  · exact timersInBounds_of_chosen hi ((invariants_present_iff s).mpr hs) ht' hu

end Sys2Proof.Safety
end

section
/-! PROOFS. The operations of the duration-coded Demodulator and the falling edges of the other variant: their words and their
whole effect, which of them `MARK` and `SPACE` choose, and the state graph. -/

namespace Sys2Proof.Safety

open Sys2Proof.Machine

/-! ## Words and effects of single operations -/

/-- The word of `N_EDGE`: its row of rule R74, and the level operand at bit 8. -/
theorem decode_eq_nEdge_iff (w : SelWord) (l : Bool) :
    decode w = .ok (.nEdge l) ↔ w &&& 0x3EC4 = 0x1CC0 ∧ w.getLsbD 8 = l :=
  (selectorDecodesExactlyItsRow (.nEdge l) w rfl).trans (and_levelField_iff (m := 0x3EC4) (p := 0x1CC0) rfl rfl w l)

/-- Settles O15: the words are those of O1, and both operations are `afterEdge` with `d` as the tick. -/
theorem firstPulseCalibrates : Obligations.FirstPulseCalibrates := by
  refine ⟨fun w => ⟨selectorDecodesExactlyItsRow .mFallCal w rfl, selectorDecodesExactlyItsRow .fFall w rfl⟩,
    fun s => ⟨?_, ?_⟩⟩
  · exact ⟨_, rfl, edgeEffect_afterEdge s s.elapsed false .space,
      fun origin => (afterEdge_ticklength s _ _ _).trans (s.elapsed_eq origin)⟩
  · exact ⟨_, exec_fFall_eq_afterEdge s, edgeEffect_afterEdge s s.elapsed true .inmessage,
      fun origin => (afterEdge_ticklength s _ _ _).trans (s.elapsed_eq origin)⟩

/-- Settles O16: the words are those of O1, and the three operations are `afterEdge` with the tick as it is. -/
theorem laterEdgesPushTheirBit : Obligations.LaterEdgesPushTheirBit := by
  have edge (s : State) (b : Bool) (target : DecoderState) :
      EdgeEffect b target s (afterEdge s s.ticklength b target) ∧
        (afterEdge s s.ticklength b target).ticklength = s.ticklength :=
    ⟨edgeEffect_afterEdge s s.ticklength b target, afterEdge_ticklength s s.ticklength b target⟩
  refine ⟨fun w l => ⟨selectorDecodesExactlyItsRow .mFallLong w rfl, selectorDecodesExactlyItsRow .mFallShort w rfl,
    decode_eq_nEdge_iff w l⟩, fun s l => ?_⟩
  exact ⟨⟨_, rfl, edge s true .space⟩, ⟨_, rfl, edge s false .space⟩, ⟨_, rfl, edge s l .tickwait⟩⟩

/-- Settles O17. -/
theorem nextPulseBegins : Obligations.NextPulseBegins :=
  ⟨fun w => selectorDecodesExactlyItsRow .sRise w rfl, fun _ => rfl⟩

/-- Settles O18: both operations are `enterAbort` behind the counted sample. -/
theorem abortEntryWritesOnlyState : Obligations.AbortEntryWritesOnlyState := by
  refine ⟨fun w => ⟨selectorDecodesExactlyItsRow .sSilence w rfl, selectorDecodesExactlyItsRow .nTimeout w rfl⟩,
    fun i hi s => ?_⟩
  simp only [List.mem_cons, List.not_mem_nil, or_false] at hi
  obtain rfl | rfl := hi <;> rfl

/-! ## What `MARK` and `SPACE` choose -/

/-- Rule R30 on a clock edge, under invariant I1. -/
theorem elapsed_present {s : State} (h : I1 s) : s.present.elapsed = s.sampleIndex + 1 - s.lastchange := by
  rw [State.elapsed_eq _ (by simp; omega), s.present_sampleIndex, s.present_lastchange]

/-- Settles O28: in `MARK` the operation is chosen by the level, by the tick being known, and by flag `G`. -/
theorem markHandler : Obligations.MarkHandler := by
  intro s l sample hv hs origin d
  have active := NextSample.active sample
  obtain ⟨hr, -, level⟩ := sample
  have hv' := s.present_variant.trans hv
  have hs' := s.present_state.trans hs
  have elapsed : s.present.elapsed = d := elapsed_present origin
  rw [← elapsed, ← s.present_ticklength]
  refine ⟨fun hl => ?_, fun hl hk => ?_, fun hl hk hg => ?_, fun hl hk hg => ?_⟩
  · exact step_of_chosen active (.mHold hr hv' hs' (level.trans hl))
  · exact step_of_chosen active (.mFallCal hr hv' hs' (level.trans hl) hk)
  · exact step_of_chosen active (.mFallLong hr hv' hs' (level.trans hl) hk hg)
  · exact step_of_chosen active (.mFallShort hr hv' hs' (level.trans hl) hk hg)

/-- Settles O29: in `SPACE` the operation is chosen by the level, by the tick being known, and by flag `Z`. -/
theorem spaceHandler : Obligations.SpaceHandler := by
  intro s l sample hv hs origin d
  have active := NextSample.active sample
  obtain ⟨hr, -, level⟩ := sample
  have hv' := s.present_variant.trans hv
  have hs' := s.present_state.trans hs
  have elapsed : s.present.elapsed = d := elapsed_present origin
  rw [← elapsed, ← s.present_ticklength]
  refine ⟨fun hl => ?_, fun hl hk => ?_, fun hl hk hz => ?_, fun hl hk hz => ?_⟩
  · exact step_of_chosen active (.sRise hr hv' hs' (level.trans hl))
  · exact step_of_chosen active (.sGuard hr hv' hs' (level.trans hl) hk)
  · exact step_of_chosen active (.sSilence hr hv' hs' (level.trans hl) hk hz)
  · exact step_of_chosen active (.sHold hr hv' hs' (level.trans hl) hk hz)

/-! ## The state graph -/

/-- Each operation, where it is chosen, goes along its arrow. -/
theorem arrow_of_chosen {s u : State} {i : Instr} (hi : Chosen s i) (h : exec i s = .next u) :
    arrow s.variant s.state i u.state = true := by
  have target {v : State} (hv : exec i s = .next v) : u.state = v.state :=
    congrArg State.state (Host.Outcome.next.inj (h.symm.trans hv))
  cases hi with
  | reset =>
    rw [target rfl]
    cases s.variant <;> cases s.state <;> rfl
  | qIdle _ hs =>
    rw [hs, target rfl, State.beginSample_state, hs]
    cases s.variant <;> rfl
  | qRiseDc _ hv hs | qRiseSc _ hv hs | mHold _ hv hs | mFallCal _ hv hs | mFallLong _ hv hs | mFallShort _ hv hs
  | sRise _ hv hs | sSilence _ hv hs | sGuard _ hv hs | sHold _ hv hs | aEmitDc _ hv hs | aDropDc _ hv hs
  | fHold _ hv hs | fFall _ hv hs | iWait _ hv hs | iSample _ hv hs | nTimeout _ hv hs | nEdge _ hv hs | nWait _ hv hs
  | tWait _ hv hs | tSample _ hv hs | aEmitSc _ hv hs | aDropSc _ hv hs =>
    rw [target rfl]
    simp [arrow, hv, hs]

/-- Settles O41: on an active clock edge the operation decoded is the one chosen. -/
theorem stepsFollowTheStateGraph : Obligations.StepsFollowTheStateGraph := by
  intro s t i ha hi h
  have chosen : Chosen s.present i := chosen_of_select ((decode_selectorWord s.present).symm.trans hi)
  have meaning : exec i s.present = .next t :=
    (step_of_chosen (by simpa [State.active] using ha) chosen).symm.trans h
  have along := arrow_of_chosen chosen meaning
  rwa [s.present_variant, s.present_state] at along

end Sys2Proof.Safety
end

section
/-! PROOFS. The silence that ends a duration-coded Message, to the sample (rules R105, R107, R143, R144, R194), and the whole
Message with it (rule R110). -/

namespace Sys2Proof.Safety

open Sys2Proof.Machine

/-! ## The silence, piece by piece -/

theorem Decodes.of_imp {P P' Q : State → Prop} {levels bits : List Bool} {frames : List Memory}
    (decodes : Decodes P' levels bits frames Q) (h : ∀ s, P s → P' s) : Decodes P levels bits frames Q :=
  fun s rest hp => decodes s rest (h s hp)

/-- What `Decodes` says of the frames and the end of a run in which one level is held. -/
theorem Decodes.observed {P Q : State → Prop} {g : Nat} {l : Bool} {bits : List Bool} {frames : List Memory}
    (decodes : Decodes P (List.replicate g l) bits frames Q) {s : State} {rest : List Pins} (hp : P s)
    (hstream : s.stream = samples (List.replicate g l) ++ rest) :
    framesOf (outputs g s) = frames ∧ ∃ u, run g s = .next u ∧ Q u := by
  obtain ⟨u, run, -, frames, hq, -⟩ := decodes s rest hp hstream
  rw [List.length_replicate] at run frames
  exact ⟨frames, u, run, hq⟩

/-- The record of `s` after `g` more samples that were only counted. -/
def Counted (s : State) (g : Nat) (u : State) : Prop :=
  SameRecord u { s with sampleIndex := s.sampleIndex + g }

/-- A duration-coded core in `ABORT` that holds the bytes `m`. -/
def DcAbort (m : Memory) (u : State) : Prop :=
  u.variant = .dc ∧ u.state = .abort ∧ u.bytes = m

theorem Counted.refl (s : State) : Counted s 0 s :=
  ⟨rfl, rfl, rfl, rfl, rfl, rfl, rfl, rfl, rfl⟩

theorem Counted.present {s u : State} {g : Nat} (h : Counted s g u) : Counted s g u.present := by
  simpa [Counted, SameRecord] using h

/-- One more sample that is only counted. -/
theorem Counted.beginSample {s u : State} {g : Nat} (h : Counted s g u) : Counted s (g + 1) u.beginSample := by
  obtain ⟨variant, state, sampleIndex, others⟩ := h
  exact ⟨variant, state, congrArg (· + 1) sampleIndex, others⟩

/-- The entry into `ABORT` changes the Decoder State alone. -/
theorem Counted.enterAbort {s u : State} {g : Nat} (h : Counted s g u) :
    Counted { s with state := .abort } g u.enterAbort := by
  obtain ⟨variant, -, others⟩ := h
  exact ⟨variant, rfl, others⟩

theorem Counted.dcAbort {s u : State} {g : Nat} (h : Counted { s with state := .abort } g u) (hv : s.variant = .dc) :
    DcAbort s.bytes u := by
  obtain ⟨variant, state, -, -, -, -, -, -, bytes⟩ := h
  exact ⟨variant.trans hv, state, bytes⟩

/-- `A_EMIT_DC` and `A_DROP_DC`: the bytes leave if there are any, and the record is a reset one. -/
theorem decodes_dc_abort (l : Bool) (m : Memory) :
    Decodes (DcAbort m) [l] [] (if m = [] then [] else [m]) (SameRecord · (State.resetWith .dc)) := by
  have frames : (if m = [] then [] else [m]) = (if m = [] then none else some m).toList := by split <;> rfl
  rw [frames]
  refine Decodes.of_chosen (bit := none) fun s ⟨hv, hs, hm⟩ pins => ?_
  have hv' := s.present_variant.trans hv
  have hs' := s.present_state.trans hs
  have reset (i : Instr) (hi : i ∈ [Instr.aEmitDc, .aDropDc, .aEmitSc, .aDropSc]) {u : State}
      (hu : exec i s.present = .next u) : SameRecord u (State.resetWith .dc) := hv' ▸ sameRecord_of_abortHandler hi hu
  obtain rfl : s.present.bytes = m := s.present_bytes.trans hm
  split
  case isTrue empty =>
    exact ⟨_, _, .aDropDc (rst_of_sample pins) hv' hs' (empty ▸ rfl), rfl, rfl, rfl, rfl,
      fun _ => reset .aDropDc (by decide) rfl⟩
  case isFalse some =>
    have valid : frameOkDc s.present.bytes = true := (frameOkDc_iff _).mpr (List.length_pos_iff.mpr some)
    exact ⟨_, _, .aEmitDc (rst_of_sample pins) hv' hs' valid, rfl, rfl, rfl, rfl,
      fun _ => reset .aEmitDc (by decide) rfl⟩

section
variable {s : State} (hv : s.variant = .dc) (hs : s.state = .space) (known : s.ticklength ≠ 0)
  (origin : s.lastchange = s.sampleIndex)
include hv hs known origin

/-- The operation on a low sample, `g` samples after the falling edge: the silence goes on, or it is the timeout. -/
theorem chosen_of_silence {g : Nat} {u : State} (h : Counted s g u) (pins : u.pins = Pins.sample false) :
    Chosen u (if 50 * s.ticklength < g + 1 then .sSilence else .sHold) := by
  obtain ⟨variant, state, sampleIndex, lastchange, ticklength, -⟩ := h
  have elapsed : u.elapsed = g + 1 := by
    have index : u.sampleIndex = u.lastchange + g := by rw [sampleIndex, lastchange, origin]
    rw [u.elapsed_eq (by omega)]
    omega
  have hv' := variant.trans hv
  have hs' := state.trans hs
  have known' : u.ticklength ≠ 0 := ticklength ▸ known
  rw [← elapsed, ← show u.ticklength = s.ticklength from ticklength]
  split
  case isTrue past => exact .sSilence (rst_of_sample pins) hv' hs' (level_of_sample pins) known' past
  case isFalse within =>
    exact .sHold (rst_of_sample pins) hv' hs' (level_of_sample pins) known' (Nat.le_of_not_lt within)

/-- `S_HOLD`: up to 50 ticks of silence are only counted. -/
theorem decodes_silence {g : Nat} (h : g ≤ 50 * s.ticklength) :
    Decodes (Counted s 0) (List.replicate g false) [] [] (Counted s g) := by
  have waits := decodes_levels (P := Counted s) (levels := List.replicate g false) (d := 0) fun l hl m hm => by
    obtain rfl := List.eq_of_mem_replicate hl
    rw [List.length_replicate] at hm
    refine Decodes.of_chosen (bit := none) (frame := none) fun u hu pins => ?_
    have chosen := chosen_of_silence hv hs known origin hu.present pins
    rw [if_neg (by omega)] at chosen
    exact ⟨_, _, chosen, rfl, rfl, rfl, rfl, fun _ => hu.present.beginSample⟩
  rwa [List.length_replicate, Nat.zero_add] at waits

/-- `S_SILENCE`: the first sample past 50 ticks. -/
theorem decodes_silence_timeout :
    Decodes (Counted s 0) (List.replicate (50 * s.ticklength + 1) false) [] []
      (Counted { s with state := .abort } (50 * s.ticklength + 1)) := by
  have timeout : Decodes (Counted s (50 * s.ticklength)) [false] [] []
      (Counted { s with state := .abort } (50 * s.ticklength + 1)) := by
    refine Decodes.of_chosen (bit := none) (frame := none) fun u hu pins => ?_
    have chosen := chosen_of_silence hv hs known origin hu.present pins
    rw [if_pos (Nat.lt_succ_self _)] at chosen
    exact ⟨_, _, chosen, rfl, rfl, rfl, rfl, fun _ => hu.present.beginSample.enterAbort⟩
  rw [List.replicate_succ']
  exact (decodes_silence hv hs known origin (Nat.le_refl _)).append timeout

/-- The whole silence with the `ABORT` sample behind it. -/
theorem decodes_silence_abort :
    Decodes (Counted s 0) (List.replicate (50 * s.ticklength + 2) false) []
      (if s.bytes = [] then [] else [s.bytes]) (SameRecord · (State.resetWith .dc)) := by
  rw [List.replicate_succ']
  exact (decodes_silence_timeout hv hs known origin).append
    ((decodes_dc_abort false s.bytes).of_imp fun _ h => h.dcAbort hv)

end

/-- Settles O54: the three lengths of the silence are the three pieces above. -/
theorem silenceEndsTheMessageExactly : Obligations.SilenceEndsTheMessageExactly := by
  intro s g rest hv hs known origin hstream
  refine ⟨fun within => ?_, fun timeout => ?_, fun abort => ?_⟩
  · exact (decodes_silence hv hs known origin within).observed (Counted.refl s) hstream
  · subst timeout
    exact (decodes_silence_timeout hv hs known origin).observed (Counted.refl s) hstream
  · subst abort
    exact (decodes_silence_abort hv hs known origin).observed (Counted.refl s) hstream

/-! ## The whole Message -/

/-- Less than eight bits complete no byte (rule R53). -/
theorem packBytes_eq_nil_iff (bs : List Bool) : packBytes bs = [] ↔ bs.length < 8 := by
  refine ⟨fun h => ?_, packBytes_of_length_lt⟩
  obtain short | ⟨b0, b1, b2, b3, b4, b5, b6, b7, rest, rfl⟩ := length_lt_or_exists_octet bs
  · exact short
  · simp [packBytes] at h

/-- What the silence starts from: a core that has just seen the falling edge of a pulse. -/
theorem DcReceiving.silence {t : Nat} {bs : List Bool} {s : State} (h : DcReceiving .space t 0 bs s) :
    s.variant = .dc ∧ s.state = .space ∧ s.ticklength = t ∧ s.lastchange = s.sampleIndex ∧ s.bytes = packBytes bs := by
  obtain ⟨⟨variant, state, ticklength, sampleIndex⟩, -, bytes, -⟩ := h
  exact ⟨variant, state, ticklength, sampleIndex.symm, bytes⟩

/-- The Message with its silence through the timeout: no frame leaves. -/
theorem decodes_dc_message_timeout {t : Nat} (ht : 1 ≤ t) (pulses : List (Nat × Nat))
    (h : ∀ p ∈ pulses, 1 ≤ p.1 ∧ p.1 ≤ 50 * t + 1 ∧ 1 ≤ p.2) :
    Decodes DcQuiet (dcLevels t pulses ++ [false] ++ List.replicate (50 * t + 1) false) (dcBits t pulses) []
      (DcAbort (packBytes (dcBits t pulses))) := by
  have silence : Decodes (DcReceiving .space t 0 (dcBits t pulses)) (List.replicate (50 * t + 1) false) [] []
      (DcAbort (packBytes (dcBits t pulses))) := by
    intro s rest receiving hstream
    obtain ⟨hv, hs, rfl, origin, held⟩ := receiving.silence
    obtain ⟨u, run, bits, frames, counted, stream⟩ :=
      decodes_silence_timeout hv hs (Nat.ne_of_gt ht) origin s rest (Counted.refl s) hstream
    exact ⟨u, run, bits, frames, held ▸ counted.dcAbort hv, stream⟩
  simpa using (decodes_dc_message ht pulses h).append silence

/-- Settles O57: the Message through its timeout, and the `ABORT` sample behind it. -/
theorem durationCodedMessageDecodes : Obligations.DurationCodedMessageDecodes := by
  intro t pulses s rest ht hpulses invariants hv hs hstream n
  have message := decodes_dc_message_timeout ht pulses hpulses
  have low : List.replicate (50 * t + 3) false = [false] ++ List.replicate (50 * t + 1) false ++ [false] := by
    rw [List.replicate_succ', List.replicate_succ]
    rfl
  rw [low, ← List.append_assoc, ← List.append_assoc] at hstream
  obtain ⟨-, -, -, frames, -, -⟩ :=
    message s (samples [false] ++ rest) ⟨invariants, hv, hs⟩ (by rw [hstream, samples_append, List.append_assoc])
  obtain ⟨u, run, bits', frames', record, stream⟩ :=
    message.append (decodes_dc_abort false _) s rest ⟨invariants, hv, hs⟩ hstream
  have length : (dcLevels t pulses ++ [false] ++ List.replicate (50 * t + 1) false ++ [false]).length = n := by simp [n]
  have length' : (dcLevels t pulses ++ [false] ++ List.replicate (50 * t + 1) false).length = n - 1 := by simp [n]
  rw [length] at run bits' frames'
  rw [length'] at frames
  rw [List.append_nil] at bits'
  simp only [packBytes_eq_nil_iff, ← Nat.not_le, ite_not, List.nil_append] at frames'
  exact ⟨bits', frames, frames', u, run, record, stream⟩

end Sys2Proof.Safety
end

section
/-! PROOFS. The Demodulator of the self-clocking variant: the words and the effect of its two level samples, which operation each
of its states chooses, and the two-tick timeout to the sample (rules R120 to R128, R142, R145, R146, R194). -/

namespace Sys2Proof.Safety

open Sys2Proof.Machine

/-! ## The two level samples -/

/-- Settles O19: the words are those of O1 with the level operand at bit 8, and the two operations have one meaning. -/
theorem levelIsSampled : Obligations.LevelIsSampled := by
  refine ⟨fun w l => ⟨?_, ?_⟩, fun l i hi s => ?_⟩
  · exact (selectorDecodesExactlyItsRow (.iSample l) w rfl).trans
      (and_levelField_iff (m := 0x3EA0) (p := 0x1AA0) rfl rfl w l)
  · exact (selectorDecodesExactlyItsRow (.tSample l) w rfl).trans
      (and_levelField_iff (m := 0x3E90) (p := 0x1E90) rfl rfl w l)
  · simp only [List.mem_cons, List.not_mem_nil, or_false] at hi
    obtain rfl | rfl := hi <;> rfl

/-! ## What the self-clocking states choose -/

section
variable {st : DecoderState} {tick d : Nat} {lv l : Bool} {s : State}

/-- `INMESSAGE` with the tick known: flag `H` decides (rules R122, R123). -/
theorem ScTiming.chosen_inmessage (h : ScTiming .inmessage tick d lv s) (hr : s.pins.rst = false) (known : tick ≠ 0) :
    Chosen s (if 2 * (d + 1) < tick then .iWait else .iSample s.pins.level) := by
  have elapsed := h.elapsed
  obtain ⟨hv, hs, rfl, -, -⟩ := h
  rw [← elapsed]
  split
  case isTrue early => exact .iWait hr hv hs known early
  case isFalse late => exact .iSample hr hv hs known (Nat.le_of_not_lt late)

/-- `NEEDCHANGE` with the tick known: flag `O` decides, and then flag `X` (rules R124 to R126, R167 (4)). -/
theorem ScTiming.chosen_needchange (h : ScTiming .needchange tick d lv s) (hr : s.pins.rst = false) (known : tick ≠ 0) :
    Chosen s (if 2 * tick < d + 1 then .nTimeout else if s.pins.level = lv then .nWait else .nEdge s.pins.level) := by
  have elapsed := h.elapsed
  obtain ⟨hv, hs, rfl, -, rfl⟩ := h
  rw [← elapsed]
  split
  case isTrue past => exact .nTimeout hr hv hs known past
  case isFalse within =>
    have inTime := Nat.le_of_not_lt within
    split
    case isTrue same => exact .nWait hr hv hs known inTime same
    case isFalse changed => exact .nEdge hr hv hs known inTime changed

/-- `TICKWAIT` with the tick known: flag `W` decides (rules R127, R128). -/
theorem ScTiming.chosen_tickwait (h : ScTiming .tickwait tick d lv s) (hr : s.pins.rst = false) (known : tick ≠ 0) :
    Chosen s (if 2 * (d + 1) < 3 * tick then .tWait else .tSample s.pins.level) := by
  have elapsed := h.elapsed
  obtain ⟨hv, hs, rfl, -, -⟩ := h
  rw [← elapsed]
  split
  case isTrue early => exact .tWait hr hv hs known early
  case isFalse late => exact .tSample hr hv hs known (Nat.le_of_not_lt late)

/-- Under invariant I1 a clock edge finds the record timed from the last change on. -/
theorem scTiming_present (hv : s.variant = .sc) (hs : s.state = st) (origin : I1 s) :
    ScTiming st s.ticklength (s.sampleIndex - s.lastchange) s.lastlevel s.present :=
  ScTiming.present ⟨hv, hs, rfl, (Nat.add_sub_of_le origin).symm, rfl⟩

end

/-- Settles O31: in `FIRSTMARK` the operation is chosen by the level. -/
theorem firstmarkHandler : Obligations.FirstmarkHandler := by
  intro s l sample hv hs
  have active := NextSample.active sample
  obtain ⟨hr, -, level⟩ := sample
  have hv' := s.present_variant.trans hv
  have hs' := s.present_state.trans hs
  exact ⟨fun hl => step_of_chosen active (.fHold hr hv' hs' (level.trans hl)),
    fun hl => step_of_chosen active (.fFall hr hv' hs' (level.trans hl))⟩

/-- Settles O32: in `INMESSAGE` the operation is chosen by flag `H`. -/
theorem inmessageHandler : Obligations.InmessageHandler := by
  intro s l sample hv hs origin known d
  have active := NextSample.active sample
  obtain ⟨hr, -, rfl⟩ := sample
  have chosen := (scTiming_present hv hs origin).chosen_inmessage hr known
  rw [← Nat.sub_add_comm origin] at chosen
  have performed := step_of_chosen active chosen
  refine ⟨fun early => ?_, fun late => ?_⟩
  · rwa [if_pos early] at performed
  · rwa [if_neg (Nat.not_lt_of_le late)] at performed

/-- Settles O33: in `NEEDCHANGE` flag `O` chooses before flag `X` is looked at. -/
theorem needchangeHandler : Obligations.NeedchangeHandler := by
  intro s l sample hv hs origin known d
  have active := NextSample.active sample
  obtain ⟨hr, -, rfl⟩ := sample
  have chosen := (scTiming_present hv hs origin).chosen_needchange hr known
  rw [← Nat.sub_add_comm origin] at chosen
  have performed := step_of_chosen active chosen
  refine ⟨fun past => ?_, fun within changed => ?_, fun within same => ?_⟩
  · rwa [if_pos past] at performed
  · rwa [if_neg (Nat.not_lt_of_le within), if_neg changed] at performed
  · rwa [if_neg (Nat.not_lt_of_le within), if_pos same] at performed

/-- Settles O34: in `TICKWAIT` the operation is chosen by flag `W`. -/
theorem tickwaitHandler : Obligations.TickwaitHandler := by
  intro s l sample hv hs origin known d
  have active := NextSample.active sample
  obtain ⟨hr, -, rfl⟩ := sample
  have chosen := (scTiming_present hv hs origin).chosen_tickwait hr known
  rw [← Nat.sub_add_comm origin] at chosen
  have performed := step_of_chosen active chosen
  refine ⟨fun early => ?_, fun late => ?_⟩
  · rwa [if_pos early] at performed
  · rwa [if_neg (Nat.not_lt_of_le late)] at performed

/-! ## The missing transition, piece by piece

The pieces of O58 carry the invariants and the bits of the Message; here the record is any that has just seen a transition. -/

/-- A self-clocking core that holds the bytes `m`, `g` samples after a decoded transition, all of the level `l`: up to one and a
half ticks they are skipped, from then on `l` is the level sampled last. -/
def Unchanging (tick : Nat) (m : Memory) (l : Bool) (g : Nat) (u : State) : Prop :=
  u.bytes = m ∧ ((2 * g < 3 * tick ∧ ∃ lv, ScTiming .tickwait tick g lv u) ∨ ScTiming .needchange tick g l u)

/-- A self-clocking core in `ABORT` that holds the bytes `m`. -/
def ScAbort (m : Memory) (u : State) : Prop :=
  u.variant = .sc ∧ u.state = .abort ∧ u.bytes = m

section
variable {tick g : Nat} {m : Memory} {l : Bool} {u : State}

theorem Unchanging.goes_on (h : Unchanging tick m l g u) :
    u.state ∈ [DecoderState.tickwait, .needchange] ∧ u.bytes = m := by
  obtain ⟨held, ⟨-, lv, timing⟩ | timing⟩ := h <;> exact ⟨by simp [timing.state], held⟩

/-- Past one and a half ticks the search for a transition is on. -/
theorem Unchanging.needchange (h : Unchanging tick m l g u) (late : 3 * tick ≤ 2 * g) :
    ScTiming .needchange tick g l u := by
  obtain ⟨-, ⟨early, -⟩ | timing⟩ := h
  · exact absurd early (Nat.not_lt_of_le late)
  · exact timing

/-- What `T_SAMPLE` leaves (rule R128). -/
theorem ScTiming.samplesLevel {st : DecoderState} {d : Nat} {lv : Bool} (h : ScTiming st tick d lv u) :
    ScTiming .needchange tick (d + 1) l ((u.beginSample.setLastlevel l).goto .needchange) := by
  obtain ⟨variant, -, ticklength, sampleIndex, -⟩ := h.beginSample
  exact ⟨variant, rfl, ticklength, sampleIndex, rfl⟩

/-- `T_WAIT`, `T_SAMPLE` and `N_WAIT`: one sample more, not past two ticks. -/
theorem decodes_unchanging_sample (known : tick ≠ 0) (within : g < 2 * tick) :
    Decodes (Unchanging tick m l g) [l] [] [] (Unchanging tick m l (g + 1)) := by
  refine Decodes.of_chosen (bit := none) (frame := none) fun s ⟨held, phase⟩ pins => ?_
  have hr := rst_of_sample pins
  have level := level_of_sample pins
  have held' : s.present.bytes = m := s.present_bytes.trans held
  obtain ⟨-, lv, timing⟩ | timing := phase
  · have chosen := timing.present.chosen_tickwait hr known
    rw [level] at chosen
    split at chosen
    case isTrue early =>
      exact ⟨_, _, chosen, rfl, rfl, rfl, rfl, fun _ => ⟨held', .inl ⟨early, lv, timing.present.beginSample⟩⟩⟩
    case isFalse late => exact ⟨_, _, chosen, rfl, rfl, rfl, rfl, fun _ => ⟨held', .inr timing.present.samplesLevel⟩⟩
  · have chosen := timing.present.chosen_needchange hr known
    rw [if_neg (Nat.not_lt_of_le within), if_pos level] at chosen
    exact ⟨_, _, chosen, rfl, rfl, rfl, rfl, fun _ => ⟨held', .inr timing.present.beginSample⟩⟩

/-- Up to two ticks without a transition the Message goes on. -/
theorem decodes_unchanging (known : tick ≠ 0) (h : g ≤ 2 * tick) :
    Decodes (Unchanging tick m l 0) (List.replicate g l) [] [] (Unchanging tick m l g) := by
  have waits := decodes_levels (P := Unchanging tick m l) (levels := List.replicate g l) (d := 0) fun l' hl' n hn => by
    obtain rfl := List.eq_of_mem_replicate hl'
    rw [List.length_replicate] at hn
    exact decodes_unchanging_sample known (by omega)
  rwa [List.length_replicate, Nat.zero_add] at waits

/-- `N_TIMEOUT`: the first sample past two ticks. -/
theorem decodes_unchanging_timeout (known : tick ≠ 0) :
    Decodes (Unchanging tick m l 0) (List.replicate (2 * tick + 1) l) [] [] (ScAbort m) := by
  have timeout : Decodes (Unchanging tick m l (2 * tick)) [l] [] [] (ScAbort m) := by
    refine Decodes.of_chosen (bit := none) (frame := none) fun s unchanging pins => ?_
    have timing := (unchanging.needchange (by omega)).present
    have chosen := timing.chosen_needchange (rst_of_sample pins) known
    rw [if_pos (Nat.lt_succ_self _)] at chosen
    obtain ⟨held, -⟩ := unchanging
    exact ⟨_, _, chosen, rfl, rfl, rfl, rfl, fun _ => ⟨timing.variant, rfl, s.present_bytes.trans held⟩⟩
  rw [List.replicate_succ']
  exact (decodes_unchanging known (Nat.le_refl _)).append timeout

/-- `A_EMIT_SC` and `A_DROP_SC` on any record: the bytes leave if they pass the validator. -/
theorem decodes_sc_abort :
    Decodes (ScAbort m) [l] [] (if frameOkSc m = true then [m] else []) (SameRecord · (State.resetWith .sc)) := by
  have frames : (if frameOkSc m = true then [m] else []) = (if frameOkSc m = true then some m else none).toList := by
    split <;> rfl
  rw [frames]
  refine Decodes.of_chosen (bit := none) fun s ⟨hv, hs, hm⟩ pins => ?_
  have hr := rst_of_sample pins
  have hv' := s.present_variant.trans hv
  have hs' := s.present_state.trans hs
  obtain rfl : s.present.bytes = m := s.present_bytes.trans hm
  split
  case isTrue valid =>
    exact ⟨_, _, .aEmitSc hr hv' hs' valid, rfl, rfl, rfl, rfl,
      fun _ => hv' ▸ sameRecord_of_abortHandler (i := .aEmitSc) (by decide) rfl⟩
  case isFalse invalid =>
    exact ⟨_, _, .aDropSc hr hv' hs' (Bool.eq_false_iff.mpr invalid), rfl, rfl, rfl, rfl,
      fun _ => hv' ▸ sameRecord_of_abortHandler (i := .aDropSc) (by decide) rfl⟩

/-- The two ticks with the timeout and the `ABORT` sample behind them. -/
theorem decodes_unchanging_abort (known : tick ≠ 0) :
    Decodes (Unchanging tick m l 0) (List.replicate (2 * tick + 2) l) [] (if frameOkSc m = true then [m] else [])
      (SameRecord · (State.resetWith .sc)) := by
  rw [List.replicate_succ']
  exact (decodes_unchanging_timeout known).append decodes_sc_abort

/-- What `Decodes` says of the bits of a run in which one level is held. -/
theorem Decodes.bits_observed {P Q : State → Prop} {bits : List Bool} {frames : List Memory}
    (decodes : Decodes P (List.replicate g l) bits frames Q) {s : State} {rest : List Pins} (hp : P s)
    (hstream : s.stream = samples (List.replicate g l) ++ rest) : bitsOf (outputs g s) = bits := by
  obtain ⟨-, -, bits, -⟩ := decodes s rest hp hstream
  rwa [List.length_replicate] at bits

end

/-- Settles O55: the three lengths of the run are the three pieces above, and none of them has a bit. -/
theorem missingTransitionEndsTheMessageExactly : Obligations.MissingTransitionEndsTheMessageExactly := by
  intro s l g rest hv hs known origin hstream bound valid
  have start : Unchanging s.ticklength s.bytes l 0 s :=
    ⟨rfl, .inl ⟨by omega, s.lastlevel, hv, hs, rfl, origin.symm, rfl⟩⟩
  have validated : frameOkSc s.bytes = true ↔ valid := frameOkSc_iff s.bytes
  obtain within | rfl | rfl : g ≤ 2 * s.ticklength ∨ g = 2 * s.ticklength + 1 ∨ g = 2 * s.ticklength + 2 := by omega
  · have decodes := decodes_unchanging (m := s.bytes) (l := l) known within
    obtain ⟨frames, u, run, unchanging⟩ := decodes.observed start hstream
    exact ⟨decodes.bits_observed start hstream, fun _ => ⟨frames, u, run, unchanging.goes_on⟩,
      fun timeout => by omega, fun abort => by omega⟩
  · have decodes := decodes_unchanging_timeout (m := s.bytes) (l := l) known
    obtain ⟨frames, u, run, -, aborted⟩ := decodes.observed start hstream
    exact ⟨decodes.bits_observed start hstream, fun within => by omega, fun _ => ⟨frames, u, run, aborted⟩,
      fun abort => by omega⟩
  · have decodes := decodes_unchanging_abort (m := s.bytes) (l := l) known
    obtain ⟨frames, fresh⟩ := decodes.observed start hstream
    refine ⟨decodes.bits_observed start hstream, fun within => by omega, fun timeout => by omega,
      fun _ => ⟨?_, ?_, fresh⟩⟩
    · exact fun passes => frames.trans (if_pos (validated.mpr passes))
    · exact fun fails => frames.trans (if_neg (mt validated.mp fails))

end Sys2Proof.Safety
end

section
/-! PROOFS. The Frame Assembler (43_frame_assembler.md): `PushBit`, the four handlers of `ABORT` with their words and their whole
effect, and that a frame leaves the core exactly when the variant's validator passes (rules R140 to R146). -/

namespace Sys2Proof.Safety

open Sys2Proof.Machine

/-! ## `PushBit` -/

/-- Settles O22: the Frame Assembler's part is `BitPushed`, and every other field is left alone. -/
theorem pushBitShiftsAndCompletes : Obligations.PushBitShiftsAndCompletes :=
  fun s b hout => ⟨bitPushed_pushBit s b hout, s.pushBit_variant b, s.pushBit_state b, s.pushBit_sampleIndex b,
    s.pushBit_lastchange b, s.pushBit_ticklength b, s.pushBit_lastlevel b, s.pushBit_out_frame b, s.pushBit_pins b,
    s.pushBit_stream b⟩

/-! ## The four handlers -/

/-- `A_EMIT_DC` and `A_EMIT_SC`: the frame leaves before the internal reset clears it (rules R143, R145, R169). -/
theorem exec_emitting (s : State) {i : Instr} (hi : i ∈ [Instr.aEmitDc, .aEmitSc]) :
    exec i s = .next { State.resetWith s.variant with
      out := ⟨none, none, some s.bytes⟩, pins := s.pins, stream := s.stream } := by
  have meaning : exec i s = .next s.beginSample.emitFrame.resetAll := by
    simp only [List.mem_cons, List.not_mem_nil, or_false] at hi
    obtain rfl | rfl := hi <;> rfl
  exact meaning.trans (congrArg Host.Outcome.next (State.resetAll_eq _))

/-- `A_DROP_DC` and `A_DROP_SC`: the internal reset and no output (rules R144, R146, R169). -/
theorem exec_dropping (s : State) {i : Instr} (hi : i ∈ [Instr.aDropDc, .aDropSc]) :
    exec i s = .next { State.resetWith s.variant with
      out := ⟨none, none, none⟩, pins := s.pins, stream := s.stream } := by
  have meaning : exec i s = .next s.beginSample.resetAll := by
    simp only [List.mem_cons, List.not_mem_nil, or_false] at hi
    obtain rfl | rfl := hi <;> rfl
  exact meaning.trans (congrArg Host.Outcome.next (State.resetAll_eq _))

/-- Settles O20: the words are those of O1, the effects the two above. -/
theorem abortHandlersEmitOrDropAndReset : Obligations.AbortHandlersEmitOrDropAndReset := by
  have row (i : Instr) (wf : i.wf = true) (w : SelWord) := selectorDecodesExactlyItsRow i w wf
  exact ⟨fun w => ⟨row .aEmitDc rfl w, row .aDropDc rfl w, row .aEmitSc rfl w, row .aDropSc rfl w⟩,
    fun s => ⟨fun _ => exec_emitting s, fun _ => exec_dropping s⟩⟩

/-! ## Flag `F` decides between them -/

theorem flagF_dc_iff {s : State} (hv : s.variant = .dc) : s.flagF = true ↔ 1 ≤ s.bytes.length := by
  rw [flagF_dc hv, frameOkDc_iff]

theorem flagF_sc_iff {s : State} (hv : s.variant = .sc) :
    s.flagF = true ↔ 2 ≤ s.bytes.length ∧ ∃ b, Memory.read s.bytes 0 = some b ∧ b.toNat / 16 = 0xF := by
  rw [flagF_sc hv, frameOkSc_iff]

theorem flagF_present (s : State) : s.present.flagF = s.flagF := by
  simp [State.flagF]

/-- In `ABORT` with flag `F` the variant's emitting handler is chosen. -/
theorem exists_chosen_emitting {s : State} (hr : s.pins.rst = false) (hs : s.state = .abort) (hf : s.flagF = true) :
    ∃ i ∈ [Instr.aEmitDc, .aEmitSc], Chosen s i := by
  cases hv : s.variant with
  | dc => exact ⟨.aEmitDc, by simp, .aEmitDc hr hv hs (flagF_dc hv ▸ hf)⟩
  | sc => exact ⟨.aEmitSc, by simp, .aEmitSc hr hv hs (flagF_sc hv ▸ hf)⟩

/-- In `ABORT` without flag `F` the variant's dropping handler is chosen. -/
theorem exists_chosen_dropping {s : State} (hr : s.pins.rst = false) (hs : s.state = .abort) (hf : s.flagF = false) :
    ∃ i ∈ [Instr.aDropDc, .aDropSc], Chosen s i := by
  cases hv : s.variant with
  | dc => exact ⟨.aDropDc, by simp, .aDropDc hr hv hs (flagF_dc hv ▸ hf)⟩
  | sc => exact ⟨.aDropSc, by simp, .aDropSc hr hv hs (flagF_sc hv ▸ hf)⟩

/-- One sample in `ABORT`, of whatever level: the record of a reset, and the Byte Sequence as a frame exactly with flag `F`. -/
theorem step_abort {s : State} {l : Bool} (sample : NextSample s l) (hs : s.state = .abort) :
    ∃ t, step s = .next t ∧ SameRecord t (State.resetWith s.variant) ∧
      t.out = ⟨none, none, if s.flagF = true then some s.bytes else none⟩ := by
  have active := NextSample.active sample
  obtain ⟨hr, -, -⟩ := sample
  have hs' := s.present_state.trans hs
  rw [← flagF_present, ← s.present_variant, ← s.present_bytes]
  split
  case isTrue valid =>
    obtain ⟨i, emitting, chosen⟩ := exists_chosen_emitting hr hs' valid
    exact ⟨_, (step_of_chosen active chosen).trans (exec_emitting _ emitting),
      ⟨rfl, rfl, rfl, rfl, rfl, rfl, rfl, rfl, rfl⟩, rfl⟩
  case isFalse invalid =>
    obtain ⟨i, dropping, chosen⟩ := exists_chosen_dropping hr hs' (Bool.eq_false_iff.mpr invalid)
    exact ⟨_, (step_of_chosen active chosen).trans (exec_dropping _ dropping),
      ⟨rfl, rfl, rfl, rfl, rfl, rfl, rfl, rfl, rfl⟩, rfl⟩

/-- Settles O30: each clause is flag `F`, set or not, in the numbers of the variant's validator. -/
theorem abortHandler : Obligations.AbortHandler := by
  intro s l sample hs
  obtain ⟨t, performed, fresh, out⟩ := step_abort sample hs
  refine ⟨t, performed, fresh, ?_⟩
  rw [out]
  refine ⟨rfl, rfl, fun hv nonempty => ?_, fun hv empty => ?_, fun b hv long first preamble => ?_,
    fun b hv first other => ?_, fun hv short => ?_⟩
  · exact if_pos ((flagF_dc_iff hv).mpr nonempty)
  · exact if_neg fun valid => absurd ((flagF_dc_iff hv).mp valid) (by simp [empty])
  · exact if_pos ((flagF_sc_iff hv).mpr ⟨long, b, first, preamble⟩)
  · refine if_neg fun valid => ?_
    obtain ⟨-, b', first', preamble⟩ := (flagF_sc_iff hv).mp valid
    obtain rfl := Option.some.inj (first.symm.trans first')
    exact other preamble
  · refine if_neg fun valid => ?_
    obtain ⟨long, -⟩ := (flagF_sc_iff hv).mp valid
    exact absurd long (Nat.not_le_of_lt short)

/-! ## Where a frame comes from -/

/-- The two emitting handlers are the only operations with a frame, and it is the whole Byte Sequence. -/
theorem emitting_of_frame {i : Instr} {s u : State} (h : exec i s = .next u) {f : Memory} (hf : u.out.frame = some f) :
    i ∈ [Instr.aEmitDc, .aEmitSc] ∧ f = s.bytes := by
  cases i with
  | aEmitDc | aEmitSc =>
    obtain rfl := Host.Outcome.next.inj h
    exact ⟨by simp, (Option.some.inj hf).symm⟩
  | mFallCal | mFallLong | mFallShort | fFall | nEdge =>
    obtain rfl := Host.Outcome.next.inj h
    exact nomatch (State.pushBit_out_frame _ _).symm.trans hf
  | reset | qIdle | qRiseDc | qRiseSc | mHold | sRise | sSilence | sGuard | sHold | aDropDc | fHold | iWait | iSample
  | nTimeout | nWait | tWait | tSample | aDropSc =>
    obtain rfl := Host.Outcome.next.inj h
    exact nomatch hf

/-- The emitting handlers are chosen in `ABORT` with flag `F` only. -/
theorem abort_of_chosen_emitting {s : State} {i : Instr} (hi : Chosen s i) (emitting : i ∈ [Instr.aEmitDc, .aEmitSc]) :
    s.state = .abort ∧ s.flagF = true := by
  simp only [List.mem_cons, List.not_mem_nil, or_false] at emitting
  obtain rfl | rfl := emitting
  · cases hi with
    | aEmitDc _ hv hs valid => exact ⟨hs, (flagF_dc hv).trans valid⟩
  · cases hi with
    | aEmitSc _ hv hs valid => exact ⟨hs, (flagF_sc hv).trans valid⟩

/-- Settles O49: a frame is that of an emitting handler, which is chosen in `ABORT` with flag `F` only. -/
theorem emittedFramesAreValid : Obligations.EmittedFramesAreValid := by
  intro s t f h hf
  obtain ⟨-, rfl⟩ | ⟨-, i, hi, ht⟩ := step_cases h
  · rw [s.present_out] at hf
    exact nomatch hf
  · obtain ⟨emitting, rfl⟩ := emitting_of_frame ht hf
    obtain ⟨aborting, valid⟩ := abort_of_chosen_emitting hi emitting
    obtain rfl := Host.Outcome.next.inj ((exec_emitting _ emitting).symm.trans ht)
    rw [s.present_state] at aborting
    rw [flagF_present] at valid
    rw [s.present_bytes]
    exact ⟨rfl, aborting, rfl, fun hv => (flagF_dc_iff hv).mp valid, fun hv => (flagF_sc_iff hv).mp valid⟩

end Sys2Proof.Safety
end

section
/-! PROOFS. The entry into `ABORT` (rules R162, R163, R168): the two arrows that lead there, and where their operations are
chosen. -/

namespace Sys2Proof.Safety

open Sys2Proof.Machine

/-- Into `ABORT` the state graph has the two timeouts' arrows only (rules R162, R163). -/
theorem arrow_abort_instr {v : Variant} {st : DecoderState} {i : Instr} (h : arrow v st i .abort = true) :
    i = .sSilence ∨ i = .nTimeout := by
  cases i with
  | sSilence => exact .inl rfl
  | nTimeout => exact .inr rfl
  | reset | qIdle | qRiseDc | qRiseSc | mHold | mFallCal | mFallLong | mFallShort | sRise | sGuard | sHold | aEmitDc
  | aDropDc | fHold | fFall | iWait | iSample | nEdge | nWait | tWait | tSample | aEmitSc | aDropSc =>
    cases v <;> cases st <;> cases h

/-- Where a timeout's operation is chosen: from its own Decoder State, past its bound on the elapsed count. -/
theorem timeout_of_chosen {s : State} {i : Instr} (hi : Chosen s i) (timeout : i = .sSilence ∨ i = .nTimeout) :
    s.variant = .dc ∧ s.state = .space ∧ s.pins.level = false ∧ 50 * s.ticklength < s.elapsed ∨
      s.variant = .sc ∧ s.state = .needchange ∧ 2 * s.ticklength < s.elapsed := by
  obtain rfl | rfl := timeout
  · cases hi with
    | sSilence _ hv hs hl _ hz => exact .inl ⟨hv, hs, hl, hz⟩
  · cases hi with
    | nTimeout _ hv hs _ ho => exact .inr ⟨hv, hs, ho⟩

/-- Rule R168: the entry from presented pins saves and clears nothing of the record before them. -/
theorem sameRecord_enterAbort_present (s : State) :
    SameRecord s.present.beginSample.enterAbort { s with state := .abort, sampleIndex := s.sampleIndex + 1 } :=
  ⟨s.present_variant, rfl, congrArg (· + 1) s.present_sampleIndex, s.present_lastchange, s.present_ticklength,
    s.present_lastlevel, s.present_bitacc, s.present_bitcount, s.present_bytes⟩

/-- Settles O50: the operation goes along an arrow into `ABORT`, so it is a timeout's; its bound on `d` is one on the counters
by I1, and its effect is that of O18. -/
theorem abortEnteredOnlyByTimeout : Obligations.AbortEnteredOnlyByTimeout := by
  intro s t hs outside h aborts
  obtain ⟨-, rfl⟩ | ⟨-, i, hi, ht⟩ := step_cases h
  · exact absurd (s.present_state.symm.trans aborts) outside
  · have timeout : i = .sSilence ∨ i = .nTimeout := arrow_abort_instr (aborts ▸ arrow_of_chosen hi ht)
    have effect := abortEntryWritesOnlyState.2 i (by simpa using timeout) s.present
    obtain rfl := Host.Outcome.next.inj (ht.symm.trans effect)
    refine ⟨?_, sameRecord_enterAbort_present s, rfl⟩
    have origin : s.lastchange ≤ s.sampleIndex := hs.i1
    have bound := timeout_of_chosen hi timeout
    rw [elapsed_present origin, s.present_variant, s.present_state, s.present_ticklength] at bound
    obtain ⟨hv, hst, low, late⟩ | ⟨hv, hst, late⟩ := bound
    · exact .inl ⟨hv, hst, low, by omega⟩
    · exact .inr ⟨hv, hst, by omega⟩

end Sys2Proof.Safety
end

section
/-! PROOFS. A level stuck at 1 in the first pulse of a Message or in a later one (rule R190), and the stream that has ended
(assumption 1). -/

namespace Sys2Proof.Safety

open Sys2Proof.Machine

/-! ## A level stuck at 1 -/

/-- A Decoder State of the variant's own in which a pulse is being counted (rules R100, R120). -/
def InPulse (s : State) : Prop :=
  s.variant = .dc ∧ s.state = .mark ∨ s.variant = .sc ∧ s.state = .firstmark

/-- The core after one more sample at level 1 of a pulse, with the clock cycles `rest` to come. -/
def heldHigh (s : State) (rest : List Pins) : State :=
  { s with sampleIndex := s.sampleIndex + 1, out := Out.none, pins := Pins.sample true, stream := rest }

/-- `M_HOLD` and `F_HOLD`: neither the tick nor the elapsed count is looked at, so there is no timeout. -/
theorem step_inPulse_high {s : State} (h : InPulse s) {rest : List Pins} (hstream : s.stream = Pins.sample true :: rest) :
    step s = .next (heldHigh s rest) := by
  have presented := s.present_cons (Pins.sample true) rest hstream
  have pins : s.present.pins = Pins.sample true := by rw [presented]
  have active : s.present.active = true := by simp [State.active, pins, Pins.sample]
  have counted : s.present.beginSample = heldHigh s rest := by
    rw [presented]
    rfl
  rw [← counted]
  obtain ⟨hv, hs⟩ | ⟨hv, hs⟩ := h
  · exact step_of_chosen active
      (.mHold (rst_of_sample pins) (s.present_variant.trans hv) (s.present_state.trans hs) (level_of_sample pins))
  · exact step_of_chosen active
      (.fHold (rst_of_sample pins) (s.present_variant.trans hv) (s.present_state.trans hs) (level_of_sample pins))

theorem Counted.of_heldHigh {s u : State} {rest : List Pins} {n : Nat} (h : Counted (heldHigh s rest) n u) :
    Counted s (n + 1) u := by
  obtain ⟨variant, state, sampleIndex, others⟩ := h
  exact ⟨variant, state, sampleIndex.trans (Nat.succ_add_eq_add_succ s.sampleIndex n), others⟩

/-- Settles O53, by induction on the number of high samples: each one leaves the core in the pulse. -/
theorem stuckHighLevelIsHeld : Obligations.StuckHighLevelIsHeld := by
  intro s n rest pulse hstream
  induction n generalizing s with
  | zero => exact ⟨⟨s, rfl, Counted.refl s, hstream⟩, rfl⟩
  | succ n ih =>
    have hstep : step s = .next (heldHigh s (samples (List.replicate n true) ++ rest)) := step_inPulse_high pulse hstream
    obtain ⟨⟨u, hrun, counted, stream⟩, silent⟩ := ih (heldHigh s _) pulse rfl
    refine ⟨⟨u, (run_succ hstep n).trans hrun, Counted.of_heldHigh counted, stream⟩, ?_⟩
    rw [outputs_succ hstep, silent]
    rfl

/-! ## The ended stream -/

/-- Settles O9: the pins presented are idle, so the clock edge is inactive. -/
theorem endedStreamIsIdle : Obligations.EndedStreamIsIdle := by
  intro s ended
  have presented := s.present_nil ended
  have inactive : s.present.active = false := by
    rw [presented]
    rfl
  have kept : SameRecord s s.present := by simp [SameRecord]
  exact ⟨_, step_inactive s inactive, kept, s.present_out, by rw [presented, ended]⟩

end Sys2Proof.Safety
end
